-- ==== Sys2Proof/Word.lean ====
section
/-! DEFINITION. The word and the byte (rules R7, R8). -/

namespace Sys2Proof

/-- A word, the native datum: 16 bits, bit 0 the least significant (R7, R11). -/
abbrev Word := BitVec 16

/-- Half a word: only the way memory is written down (log 1); the block itself has no bytes (R53). -/
abbrev Byte := BitVec 8

end Sys2Proof
end

