-- ==== Sys2Proof/Machine/Flags.lean ====
section
/-! DEFINITION. Every result and every EX value of the arithmetic, bitwise and shift operators, as integers computed exactly
and narrowed at the end (R8, R9, R149). `vb` is the value of `b`, `va` the value of `a` (R10). -/

namespace Sys2Proof.Machine

/-- `u16(n)` (R8). -/
def u16 (n : Int) : Word := BitVec.ofInt 16 n

/-- `s16(v)` (R8). -/
def s16 (v : Word) : Int := v.toInt

/-- `hi16(n)` (R9). -/
def hi16 (n : Int) : Word := BitVec.ofInt 16 (n % 4294967296 / 65536)

/-- A word as the unsigned integer it is (R8). -/
def uInt (v : Word) : Int := (v.toNat : Int)

/-- R141: the exact sum. -/
def addExact (vb va : Word) : Int := uInt vb + uInt va

/-- R142: the exact difference. -/
def subExact (vb va : Word) : Int := uInt vb - uInt va

/-- R143: the exact unsigned product. -/
def mulExact (vb va : Word) : Int := uInt vb * uInt va

/-- R144: the exact signed product. -/
def mliExact (vb va : Word) : Int := s16 vb * s16 va

/-- R145: the unsigned quotient, 0 for a zero divisor. -/
def divResult (vb va : Word) : Word :=
  if va = 0#16 then 0#16 else u16 (uInt vb / uInt va)

/-- R145: EX after DIV, the configuration function `divEx` at its default (log 13). -/
def divEx (vb va : Word) : Word :=
  if va = 0#16 then 0#16 else u16 (uInt vb * 65536 / uInt va)

/-- R146: the signed quotient, truncated toward zero (log 13). -/
def dviResult (vb va : Word) : Word :=
  if va = 0#16 then 0#16 else u16 ((s16 vb).tdiv (s16 va))

/-- R146: EX after DVI, the configuration function `dviEx` at its default (log 13). -/
def dviEx (vb va : Word) : Word :=
  if va = 0#16 then 0#16 else u16 ((s16 vb * 65536).tdiv (s16 va))

/-- R147: the unsigned remainder, 0 for a zero divisor. -/
def modResult (vb va : Word) : Word :=
  if va = 0#16 then 0#16 else u16 (uInt vb % uInt va)

/-- R148: the signed remainder, with the sign of the dividend (log 13). -/
def mdiResult (vb va : Word) : Word :=
  if va = 0#16 then 0#16 else u16 ((s16 vb).tmod (s16 va))

/-- R166: the shift count, the configuration function `shiftCount` at its default, the identity (log 12). -/
def shiftCount (va : Word) : Nat := va.toNat

/-- Two to the power of the shift count. -/
def shiftFactor (va : Word) : Int := ((2 ^ shiftCount va : Nat) : Int)

/-- R163: `vb:0x0000` shifted right. -/
def shrExact (vb va : Word) : Int := uInt vb * 65536 / shiftFactor va

/-- R163: the result of SHR. -/
def shrResult (vb va : Word) : Word := u16 (shrExact vb va / 65536)

/-- R163, R164: EX after SHR and ASR, zero filled (log 12). -/
def shrEx (vb va : Word) : Word := u16 (shrExact vb va)

/-- R164: the result of ASR, floor division by the power of two. -/
def asrResult (vb va : Word) : Word := u16 (s16 vb / shiftFactor va)

/-- R165: `vb` shifted left without bound. -/
def shlExact (vb va : Word) : Int := uInt vb * shiftFactor va

/-- R165: the result of SHL. -/
def shlResult (vb va : Word) : Word := u16 (shlExact vb va)

/-- R165: EX after SHL, the bits shifted out. -/
def shlEx (vb va : Word) : Word := u16 (shlExact vb va / 65536)

/-- R190: the exact sum with the whole of EX (log 14). -/
def adxExact (vb va ex : Word) : Int := uInt vb + uInt va + uInt ex

/-- R191: the exact difference with the whole of EX added (log 14). -/
def sbxExact (vb va ex : Word) : Int := uInt vb - uInt va + uInt ex

/-- R170: some bit is set in both. -/
def testIfb (vb va : Word) : Bool := (vb &&& va) != 0#16

/-- R171: no bit is set in both. -/
def testIfc (vb va : Word) : Bool := (vb &&& va) == 0#16

/-- R172: equal. -/
def testIfe (vb va : Word) : Bool := vb == va

/-- R173: not equal. -/
def testIfn (vb va : Word) : Bool := vb != va

/-- R174: greater, unsigned. -/
def testIfg (vb va : Word) : Bool := decide (uInt va < uInt vb)

/-- R175: greater, signed. -/
def testIfa (vb va : Word) : Bool := decide (s16 va < s16 vb)

/-- R176: less, unsigned. -/
def testIfl (vb va : Word) : Bool := decide (uInt vb < uInt va)

/-- R177: less, signed. -/
def testIfu (vb va : Word) : Bool := decide (s16 vb < s16 va)

end Sys2Proof.Machine
end

