-- ==== Sys2Proof/Syntax.lean ====
section
/-! DEFINITION. The instructions: one constructor per row of `spec/opcode_table.json` (R76, R77), with the operands of R73
and R74. A next word an operand consumes is part of the operand (R70). -/

namespace Sys2Proof

/-- The eight general registers, in the order of R20 and R21. -/
inductive Reg where
  | a | b | c | x | y | z | i | j
  deriving DecidableEq, Repr

/-- The addressing modes that `a` and `b` share: fields `0x00`..`0x17` and `0x19`..`0x1f` (R73, R74). -/
inductive Mode where
  /-- `0x00`..`0x07`: the register. -/
  | reg (r : Reg)
  /-- `0x08`..`0x0f`: `[register]`. -/
  | ind (r : Reg)
  /-- `0x10`..`0x17`: `[register + next word]`. -/
  | indNext (r : Reg) (nw : Word)
  /-- `0x19`: `PEEK`. -/
  | peek
  /-- `0x1a`: `PICK next word`. -/
  | pick (nw : Word)
  /-- `0x1b`: the register SP. -/
  | sp
  /-- `0x1c`: the register PC. -/
  | pc
  /-- `0x1d`: the register EX. -/
  | ex
  /-- `0x1e`: `[next word]`. -/
  | memNext (nw : Word)
  /-- `0x1f`: the next word as a literal. -/
  | next (nw : Word)
  deriving DecidableEq, Repr

/-- The operand `a` (6-bit field, R73). -/
inductive OperandA where
  | mode (m : Mode)
  /-- `0x18` in the A position. -/
  | pop
  /-- `0x20`..`0x3f`: the immediate literal, held as its value -1..30; see `OperandA.wellFormed`. -/
  | lit (v : Word)
  deriving DecidableEq, Repr

/-- The operand `b` (5-bit field, R74). -/
inductive OperandB where
  | mode (m : Mode)
  /-- `0x18` in the B position. -/
  | push
  deriving DecidableEq, Repr

/-- The 36 operators (R76, R77) with their operands, `b` first as it is written (R10). -/
inductive Instr where
  | set (b : OperandB) (a : OperandA)
  | add (b : OperandB) (a : OperandA)
  | sub (b : OperandB) (a : OperandA)
  | mul (b : OperandB) (a : OperandA)
  | mli (b : OperandB) (a : OperandA)
  | div (b : OperandB) (a : OperandA)
  | dvi (b : OperandB) (a : OperandA)
  | mod (b : OperandB) (a : OperandA)
  | mdi (b : OperandB) (a : OperandA)
  | and (b : OperandB) (a : OperandA)
  | bor (b : OperandB) (a : OperandA)
  | xor (b : OperandB) (a : OperandA)
  | shr (b : OperandB) (a : OperandA)
  | asr (b : OperandB) (a : OperandA)
  | shl (b : OperandB) (a : OperandA)
  | ifb (b : OperandB) (a : OperandA)
  | ifc (b : OperandB) (a : OperandA)
  | ife (b : OperandB) (a : OperandA)
  | ifn (b : OperandB) (a : OperandA)
  | ifg (b : OperandB) (a : OperandA)
  | ifa (b : OperandB) (a : OperandA)
  | ifl (b : OperandB) (a : OperandA)
  | ifu (b : OperandB) (a : OperandA)
  | adx (b : OperandB) (a : OperandA)
  | sbx (b : OperandB) (a : OperandA)
  | sti (b : OperandB) (a : OperandA)
  | std (b : OperandB) (a : OperandA)
  | jsr (a : OperandA)
  | int (a : OperandA)
  | iag (a : OperandA)
  | ias (a : OperandA)
  | rfi (a : OperandA)
  | iaq (a : OperandA)
  | hwn (a : OperandA)
  | hwq (a : OperandA)
  | hwi (a : OperandA)
  deriving DecidableEq, Repr

/-- The operand `a` of an instruction (R10). -/
def Instr.operandA : Instr → OperandA
  | .set _ a => a
  | .add _ a => a
  | .sub _ a => a
  | .mul _ a => a
  | .mli _ a => a
  | .div _ a => a
  | .dvi _ a => a
  | .mod _ a => a
  | .mdi _ a => a
  | .and _ a => a
  | .bor _ a => a
  | .xor _ a => a
  | .shr _ a => a
  | .asr _ a => a
  | .shl _ a => a
  | .ifb _ a => a
  | .ifc _ a => a
  | .ife _ a => a
  | .ifn _ a => a
  | .ifg _ a => a
  | .ifa _ a => a
  | .ifl _ a => a
  | .ifu _ a => a
  | .adx _ a => a
  | .sbx _ a => a
  | .sti _ a => a
  | .std _ a => a
  | .jsr a => a
  | .int a => a
  | .iag a => a
  | .ias a => a
  | .rfi a => a
  | .iaq a => a
  | .hwn a => a
  | .hwq a => a
  | .hwi a => a

/-- The operand `b` of a normal-format instruction; a special-format instruction has none (R72). -/
def Instr.operandB : Instr → Option OperandB
  | .set b _ => some b
  | .add b _ => some b
  | .sub b _ => some b
  | .mul b _ => some b
  | .mli b _ => some b
  | .div b _ => some b
  | .dvi b _ => some b
  | .mod b _ => some b
  | .mdi b _ => some b
  | .and b _ => some b
  | .bor b _ => some b
  | .xor b _ => some b
  | .shr b _ => some b
  | .asr b _ => some b
  | .shl b _ => some b
  | .ifb b _ => some b
  | .ifc b _ => some b
  | .ife b _ => some b
  | .ifn b _ => some b
  | .ifg b _ => some b
  | .ifa b _ => some b
  | .ifl b _ => some b
  | .ifu b _ => some b
  | .adx b _ => some b
  | .sbx b _ => some b
  | .sti b _ => some b
  | .std b _ => some b
  | .jsr _ => none
  | .int _ => none
  | .iag _ => none
  | .ias _ => none
  | .rfi _ => none
  | .iaq _ => none
  | .hwn _ => none
  | .hwq _ => none
  | .hwi _ => none

end Sys2Proof
end

