-- ==== Sys2Proof/WellFormed.lean ====
section
/-! DEFINITION. Which terms of `Instr` an instruction word can hold: the immediate literal is one of the 32 values -1..30
(R73); everything else is free. -/

namespace Sys2Proof

/-- R73: the immediate literals are `0xFFFF` and 0..30. -/
def OperandA.wellFormed : OperandA → Bool
  | .mode _ => true
  | .pop => true
  | .lit v => v == 0xFFFF#16 || decide (v.toNat ≤ 30)

/-- An instruction is well formed when its `a` operand is. -/
def Instr.wellFormed (i : Instr) : Bool :=
  i.operandA.wellFormed

end Sys2Proof
end

