-- ==== Sys2Proof/Decode.lean ====
section
/-! DEFINITION. Decoding (R70 to R80) and its inverse (R81). The operator numbers are the spec's defaults (log 4). -/

namespace Sys2Proof

/-- Why the decoder refuses. The first two are the illegal words of R78; `truncated` is raised only on a list of words shorter
than the instruction, which the machine never passes. -/
inductive Reject where
  | unmappedNormalSlot (o : BitVec 5)
  | unmappedSpecialSlot (so : BitVec 5)
  | truncated
  deriving DecidableEq, Repr

/-- R21: the register numbers. -/
def Reg.number : Reg → BitVec 3
  | .a => 0 | .b => 1 | .c => 2 | .x => 3 | .y => 4 | .z => 5 | .i => 6 | .j => 7

/-- R21: the register with a number. -/
def Reg.ofNumber (n : BitVec 3) : Reg :=
  match n.toNat with
  | 0 => .a | 1 => .b | 2 => .c | 3 => .x | 4 => .y | 5 => .z | 6 => .i | _ => .j

/-- The fields of an instruction word: opcode (R71). -/
def fieldO (w : Word) : BitVec 5 := w.extractLsb' 0 5

/-- Operand-B field, or the special opcode (R71, R72). -/
def fieldB (w : Word) : BitVec 5 := w.extractLsb' 5 5

/-- Operand-A field (R71, R72). -/
def fieldA (w : Word) : BitVec 6 := w.extractLsb' 10 6

/-- The next word an operand consumes and the words after it (R70). -/
def takeNext : List Word → Except Reject (Word × List Word)
  | [] => .error .truncated
  | nw :: rest => .ok (nw, rest)

/-- R73 and R74 for the field values `0x00`..`0x1f`: `stack` is what `0x18` stands for in this position, `mode` builds the
operand of every other value. -/
def decodeField {α : Type} (stack : α) (mode : Mode → α) (f : BitVec 5) (ws : List Word) : Except Reject (α × List Word) :=
  let n := f.toNat
  let r := Reg.ofNumber (f.extractLsb' 0 3)
  let withNext (k : Word → Mode) := (takeNext ws).map fun p => (mode (k p.1), p.2)
  if n < 0x08 then .ok (mode (.reg r), ws)
  else if n < 0x10 then .ok (mode (.ind r), ws)
  else if n < 0x18 then withNext (.indNext r)
  else if n = 0x18 then .ok (stack, ws)
  else if n = 0x19 then .ok (mode .peek, ws)
  else if n = 0x1a then withNext .pick
  else if n = 0x1b then .ok (mode .sp, ws)
  else if n = 0x1c then .ok (mode .pc, ws)
  else if n = 0x1d then .ok (mode .ex, ws)
  else if n = 0x1e then withNext .memNext
  else withNext .next

/-- R73: the operand `a`; the fields `0x20`..`0x3f` are the immediate literals `field - 0x21`. -/
def decodeA (f : BitVec 6) (ws : List Word) : Except Reject (OperandA × List Word) :=
  if f.toNat < 0x20 then decodeField .pop .mode (f.extractLsb' 0 5) ws
  else .ok (.lit (f.setWidth 16 - 0x21#16), ws)

/-- R74: the operand `b`. -/
def decodeB (f : BitVec 5) (ws : List Word) : Except Reject (OperandB × List Word) :=
  decodeField .push .mode f ws

/-- R76: the normal operators by number, `OPC_NORMAL` (log 4). -/
def opcNormal (o : BitVec 5) : Option (OperandB → OperandA → Instr) :=
  match o.toNat with
  | 0x01 => some .set
  | 0x02 => some .add
  | 0x03 => some .sub
  | 0x04 => some .mul
  | 0x05 => some .mli
  | 0x06 => some .div
  | 0x07 => some .dvi
  | 0x08 => some .mod
  | 0x09 => some .mdi
  | 0x0a => some .and
  | 0x0b => some .bor
  | 0x0c => some .xor
  | 0x0d => some .shr
  | 0x0e => some .asr
  | 0x0f => some .shl
  | 0x10 => some .ifb
  | 0x11 => some .ifc
  | 0x12 => some .ife
  | 0x13 => some .ifn
  | 0x14 => some .ifg
  | 0x15 => some .ifa
  | 0x16 => some .ifl
  | 0x17 => some .ifu
  | 0x1a => some .adx
  | 0x1b => some .sbx
  | 0x1e => some .sti
  | 0x1f => some .std
  | _ => none

/-- R77: the special operators by number, `OPC_SPECIAL` (log 4). -/
def opcSpecial (so : BitVec 5) : Option (OperandA → Instr) :=
  match so.toNat with
  | 0x01 => some .jsr
  | 0x08 => some .int
  | 0x09 => some .iag
  | 0x0a => some .ias
  | 0x0b => some .rfi
  | 0x0c => some .iaq
  | 0x10 => some .hwn
  | 0x11 => some .hwq
  | 0x12 => some .hwi
  | _ => none

/-- R80 with the next words attached: the instruction at the head of a list of words, and the words after it. `a` takes its
next word before `b` (R70). -/
def decode : List Word → Except Reject (Instr × List Word)
  | [] => .error .truncated
  | w :: rest =>
    if fieldO w = 0#5 then
      match opcSpecial (fieldB w) with
      | none => .error (.unmappedSpecialSlot (fieldB w))
      | some mk => (decodeA (fieldA w) rest).map fun p => (mk p.1, p.2)
    else
      match opcNormal (fieldO w) with
      | none => .error (.unmappedNormalSlot (fieldO w))
      | some mk =>
        match decodeA (fieldA w) rest with
        | .error e => .error e
        | .ok (a, rest') => (decodeB (fieldB w) rest').map fun p => (mk p.1 a, p.2)

/-- `Decode(w)` of one word (R80): the operator, the modes and the length depend on the first word alone (R70), so the next
words stand as 0 here. Used where only those are wanted (the skip chain, R178). -/
def decodeWord (w : Word) : Except Reject Instr :=
  (decode [w, 0#16, 0#16]).map Prod.fst

/-- The instruction decoded from the bits `w` of an instruction, its first word the least significant, as
`spec/opcode_table.json` numbers them; the bits from `nbits` up are 0. -/
def decodeTableWord (nbits w : Nat) : Option Instr :=
  let v := w % 2 ^ nbits
  match decode [BitVec.ofNat 16 v, BitVec.ofNat 16 (v / 2 ^ 16), BitVec.ofNat 16 (v / 2 ^ 32)] with
  | .ok p => some p.1
  | .error _ => none

/-- R75: `extra` of a shared mode, the number of next words it consumes. -/
def Mode.extra : Mode → Nat
  | .reg _ => 0 | .ind _ => 0 | .indNext _ _ => 1 | .peek => 0 | .pick _ => 1
  | .sp => 0 | .pc => 0 | .ex => 0 | .memNext _ => 1 | .next _ => 1

/-- R75: `extra` of `a`. -/
def OperandA.extra : OperandA → Nat
  | .mode m => m.extra | .pop => 0 | .lit _ => 0

/-- R75: `extra` of `b`. -/
def OperandB.extra : OperandB → Nat
  | .mode m => m.extra | .push => 0

/-- R75: the length of an instruction in words. -/
def Instr.words (i : Instr) : Nat :=
  1 + i.operandA.extra + (match i.operandB with | none => 0 | some b => b.extra)

/-- Whether the operator is one of the eight conditionals (R178). -/
def Instr.isConditional : Instr → Bool
  | .ifb _ _ | .ifc _ _ | .ife _ _ | .ifn _ _ | .ifg _ _ | .ifa _ _ | .ifl _ _ | .ifu _ _ => true
  | .set _ _ | .add _ _ | .sub _ _ | .mul _ _ | .mli _ _ | .div _ _ | .dvi _ _ | .mod _ _ | .mdi _ _ | .and _ _
  | .bor _ _ | .xor _ _ | .shr _ _ | .asr _ _ | .shl _ _ | .adx _ _ | .sbx _ _ | .sti _ _ | .std _ _ | .jsr _
  | .int _ | .iag _ | .ias _ | .rfi _ | .iaq _ | .hwn _ | .hwq _ | .hwi _ => false

/-- The 5-bit field of a shared mode (R73). -/
def Mode.field : Mode → BitVec 5
  | .reg r => 0#2 ++ r.number
  | .ind r => 1#2 ++ r.number
  | .indNext r _ => 2#2 ++ r.number
  | .peek => 0x19#5
  | .pick _ => 0x1a#5
  | .sp => 0x1b#5
  | .pc => 0x1c#5
  | .ex => 0x1d#5
  | .memNext _ => 0x1e#5
  | .next _ => 0x1f#5

/-- The next word a shared mode carries, if it consumes one (R75). -/
def Mode.nextWord : Mode → List Word
  | .reg _ => [] | .ind _ => [] | .indNext _ nw => [nw] | .peek => [] | .pick nw => [nw]
  | .sp => [] | .pc => [] | .ex => [] | .memNext nw => [nw] | .next nw => [nw]

/-- The 6-bit field of `a` (R73); the literal -1 has the field `0x20`, 0 has `0x21`, 30 has `0x3f`. -/
def OperandA.field : OperandA → BitVec 6
  | .mode m => m.field.setWidth 6
  | .pop => 0x18#6
  | .lit v => (v + 0x21#16).setWidth 6

/-- The next word of `a`. -/
def OperandA.nextWord : OperandA → List Word
  | .mode m => m.nextWord | .pop => [] | .lit _ => []

/-- The 5-bit field of `b` (R74). -/
def OperandB.field : OperandB → BitVec 5
  | .mode m => m.field
  | .push => 0x18#5

/-- The next word of `b`. -/
def OperandB.nextWord : OperandB → List Word
  | .mode m => m.nextWord | .push => []

/-- R71, R81: the words of a normal-format instruction. -/
def encodeNormal (o : BitVec 5) (b : OperandB) (a : OperandA) : List Word :=
  (a.field ++ b.field ++ o) :: (a.nextWord ++ b.nextWord)

/-- R72, R81: the words of a special-format instruction. -/
def encodeSpecial (so : BitVec 5) (a : OperandA) : List Word :=
  (a.field ++ so ++ 0#5) :: a.nextWord

/-- R81: the words of an instruction. -/
def encode : Instr → List Word
  | .set b a => encodeNormal 0x01#5 b a
  | .add b a => encodeNormal 0x02#5 b a
  | .sub b a => encodeNormal 0x03#5 b a
  | .mul b a => encodeNormal 0x04#5 b a
  | .mli b a => encodeNormal 0x05#5 b a
  | .div b a => encodeNormal 0x06#5 b a
  | .dvi b a => encodeNormal 0x07#5 b a
  | .mod b a => encodeNormal 0x08#5 b a
  | .mdi b a => encodeNormal 0x09#5 b a
  | .and b a => encodeNormal 0x0a#5 b a
  | .bor b a => encodeNormal 0x0b#5 b a
  | .xor b a => encodeNormal 0x0c#5 b a
  | .shr b a => encodeNormal 0x0d#5 b a
  | .asr b a => encodeNormal 0x0e#5 b a
  | .shl b a => encodeNormal 0x0f#5 b a
  | .ifb b a => encodeNormal 0x10#5 b a
  | .ifc b a => encodeNormal 0x11#5 b a
  | .ife b a => encodeNormal 0x12#5 b a
  | .ifn b a => encodeNormal 0x13#5 b a
  | .ifg b a => encodeNormal 0x14#5 b a
  | .ifa b a => encodeNormal 0x15#5 b a
  | .ifl b a => encodeNormal 0x16#5 b a
  | .ifu b a => encodeNormal 0x17#5 b a
  | .adx b a => encodeNormal 0x1a#5 b a
  | .sbx b a => encodeNormal 0x1b#5 b a
  | .sti b a => encodeNormal 0x1e#5 b a
  | .std b a => encodeNormal 0x1f#5 b a
  | .jsr a => encodeSpecial 0x01#5 a
  | .int a => encodeSpecial 0x08#5 a
  | .iag a => encodeSpecial 0x09#5 a
  | .ias a => encodeSpecial 0x0a#5 a
  | .rfi a => encodeSpecial 0x0b#5 a
  | .iaq a => encodeSpecial 0x0c#5 a
  | .hwn a => encodeSpecial 0x10#5 a
  | .hwq a => encodeSpecial 0x11#5 a
  | .hwi a => encodeSpecial 0x12#5 a

end Sys2Proof
end

