-- ==== Sys2Proof/Config.lean ====
section
/-! DEFINITION. The surroundings of the block (R6): the attached devices, their reactions and the clock frequency. Each is an
opaque constant: a claim that mentions one holds whatever it is. -/

namespace Sys2Proof

/-- `cpuState` (R28). -/
inductive CpuState where
  | running
  | errorIllegalInstruction
  | errorInterruptQueueFilled
  deriving DecidableEq, Repr

/-- The twelve registers the outside reads and writes by name (R39, D29). -/
inductive RegName where
  | general (r : Reg)
  | pc | sp | ex | ia
  deriving DecidableEq, Repr

/-- The constant identity triple of an attached device (R223, R260). -/
structure DeviceIdentity where
  id : BitVec 32
  version : BitVec 16
  manufacturer : BitVec 32
  deriving DecidableEq, Repr

/-- A callback the block makes to a device (R255). -/
inductive DeviceCall where
  /-- `DEV[dev].interrupt()`, made by HWI (R256). -/
  | interrupt (dev : Nat)
  /-- `DEV[dev].wake(elapsed, ctx)`, made by the flush (R257). -/
  | wake (dev : Nat) (elapsed : Nat) (ctx : Int)
  deriving DecidableEq, Repr

/-- What a device (R258), and between steps the host (R263), may do to the block. -/
inductive Action where
  | setRegister (r : RegName) (v : Word)
  | writeMemory (addr v : Word)
  | interrupt (m : Word)
  | scheduleWake (dev : Nat) (cycles : Nat) (ctx : Int)
  deriving DecidableEq, Repr

/-- What a device can read of the block while it is called (R258; log 28). -/
structure View where
  register : RegName → Word
  memory : Word → Word
  cpuState : CpuState

/-- A device's answer to a callback: the extra cycles (R256; read for HWI only), the operations it performs, in order, and
the new code of what the attached devices remember (log 30). -/
structure Reaction where
  extra : Nat
  actions : List Action
  devState : Nat
  deriving DecidableEq, Repr, Inhabited

/-- The attached devices in index order (R223; log 31). DESIGN CHOICE: opaque. -/
opaque Config.devices : List DeviceIdentity

/-- A free value: what the attached devices do when called, given what they remember, the call and what they can see of the
block (R225, R256 to R258, U11; log 30). DESIGN CHOICE: opaque. -/
opaque Config.deviceReaction : Nat → DeviceCall → View → Reaction

/-- `CLOCK_HZ`, informational; no rule reads it (R261; log 36). -/
opaque Config.clockHz : Nat

/-- `NDEV` (R223). -/
def Config.ndev : Nat := Config.devices.length

/-- `IQ_CAP` (R5, R240; log 19). -/
def Config.iqCap : Nat := 256

end Sys2Proof
end

