-- ==== Sys2Proof/Machine/State.lean ====
section
/-! DEFINITION. The state of the block (10_state.md), its faults and refusals, and the state after reset (R36). -/

namespace Sys2Proof.Machine

/-- The eight general registers (R20). -/
structure Regs where
  a : Word
  b : Word
  c : Word
  x : Word
  y : Word
  z : Word
  i : Word
  j : Word
  deriving DecidableEq, Repr

/-- The memory array (R27, R50), written as the host's cells: the word at address `n` stands in the cells `2 * n` (bits 7:0)
and `2 * n + 1` (bits 15:8), and a cell that is not listed is 0 (logs 1, 2). -/
structure Memory where
  cells : List Host.Cell
  deriving DecidableEq, Repr

/-- What an unlisted cell reads as (log 2). DESIGN CHOICE: 0. -/
def Memory.unlisted : Byte := 0#8

/-- The canonical form: cell addresses strictly rising and inside the 65,536 words, no cell equal to what an unlisted one
reads as. -/
def Memory.wf (m : Memory) : Bool :=
  decide (m.cells.Pairwise fun p q => p.1 < q.1) && m.cells.all fun p => decide (p.1 < 131072) && p.2 != Memory.unlisted

/-- A wake request (R32): the device, its context integer, T when it was made, and the end timestamp. -/
structure WakeRequest where
  dev : Nat
  ctx : Int
  start : Nat
  endT : Nat
  deriving DecidableEq, Repr

/-- The whole state of the block, and three fields of the model's own (the last three; logs 30, 34). -/
structure State where
  /-- A, B, C, X, Y, Z, I, J (R20). -/
  regs : Regs
  /-- R22. -/
  pc : Word
  /-- R23. -/
  sp : Word
  /-- R24. -/
  ex : Word
  /-- R25. -/
  ia : Word
  /-- R27. -/
  mem : Memory
  /-- R28. -/
  cpuState : CpuState
  /-- `IE` (R29). -/
  ie : Bool
  /-- `IQ`, head first (R30). -/
  iq : List Word
  /-- `T` (R31). -/
  t : Nat
  /-- `WQ`, ascending `endT` (R32). -/
  wq : List WakeRequest
  /-- R33. -/
  initPending : Bool
  /-- R34. -/
  flushing : Bool
  /-- R34, in the order requested. -/
  deferred : List WakeRequest
  /-- The model's own: the cycle count of R100, what the last step returned (R108). -/
  cycles : Nat
  /-- The model's own: the device callbacks of the last step, in order (R108). -/
  calls : List DeviceCall
  /-- The model's own: what the attached devices remember, as a code (log 30). -/
  devState : Nat
  deriving DecidableEq, Repr

/-- Why a step has no next state. -/
inductive Fault where
  /-- R180, U7: a skip chain that meets conditional instructions all the way round never ends, and the step never returns.
  Raised by the eight conditionals. Safe: the block has no result there either. -/
  | skipChainNeverEnds
  deriving DecidableEq, Repr

/-- Why the model gives an instruction no meaning. -/
inductive Refusal where
  /-- An instruction without a meaning yet. Raised by no arm of `exec`: every instruction has one. Safe: the model stops. -/
  | notModelled (mnemonic : String)
  deriving DecidableEq, Repr

/-- The block right after reset (R36, R281), with the all-zero image (log 2) and the model's own fields at 0 and empty
(logs 30, 34). -/
def State.reset : State where
  regs := ⟨0#16, 0#16, 0#16, 0#16, 0#16, 0#16, 0#16, 0#16⟩
  pc := 0#16
  sp := 0#16
  ex := 0#16
  ia := 0#16
  mem := ⟨[]⟩
  cpuState := .running
  ie := true
  iq := []
  t := 0
  wq := []
  initPending := true
  flushing := false
  deferred := []
  cycles := 0
  calls := []
  devState := 0

end Sys2Proof.Machine
end

