-- ==== Sys2Proof/Machine/Ops.lean ====
section
/-! DEFINITION. The named operations: memory, registers, the stack, the two fatal conditions, the interrupt queue, taking an
interrupt and returning from one, the wake list, and the fetch. -/

namespace Sys2Proof.Machine

/-! ### Memory (R50) -/

/-- One cell of a list of cells. -/
def cellAt : List Host.Cell → Nat → Byte
  | [], _ => Memory.unlisted
  | p :: rest, k => if p.1 = k then p.2 else cellAt rest k

/-- A cell before the ones after it, left out when it reads as unlisted. -/
def consCell (k : Nat) (v : Byte) (rest : List Host.Cell) : List Host.Cell :=
  if v = Memory.unlisted then rest else (k, v) :: rest

/-- One cell written, in the canonical form. -/
def putCell (k : Nat) (v : Byte) : List Host.Cell → List Host.Cell
  | [] => consCell k v []
  | p :: rest =>
    if k < p.1 then consCell k v (p :: rest)
    else if k = p.1 then consCell k v rest
    else p :: putCell k v rest

/-- `MemRead(addr, 1)` (R50), from the two cells of the word (log 1). -/
def Memory.read (m : Memory) (addr : Word) : Word :=
  cellAt m.cells (2 * addr.toNat + 1) ++ cellAt m.cells (2 * addr.toNat)

/-- `MemWrite(addr, 1, v)` (R50). -/
def Memory.write (m : Memory) (addr v : Word) : Memory :=
  ⟨putCell (2 * addr.toNat + 1) (v.extractLsb' 8 8) (putCell (2 * addr.toNat) (v.extractLsb' 0 8) m.cells)⟩

/-- Words stored one after the other from an address on, wrapping (R50, R283). -/
def Memory.writeList (m : Memory) (addr : Word) : List Word → Memory
  | [] => m
  | w :: ws => (m.write addr w).writeList (addr + 1#16) ws

/-! ### Registers -/

/-- `x[i]` (R9, R20). -/
def Regs.get (g : Regs) : Reg → Word
  | .a => g.a | .b => g.b | .c => g.c | .x => g.x | .y => g.y | .z => g.z | .i => g.i | .j => g.j

/-- `x[i] <- v` (R9, R20). -/
def Regs.set (g : Regs) (r : Reg) (v : Word) : Regs :=
  match r with
  | .a => { g with a := v }
  | .b => { g with b := v }
  | .c => { g with c := v }
  | .x => { g with x := v }
  | .y => { g with y := v }
  | .z => { g with z := v }
  | .i => { g with i := v }
  | .j => { g with j := v }

/-! ### One update per piece of state -/

def State.setReg (s : State) (r : Reg) (v : Word) : State := { s with regs := s.regs.set r v }
def State.setPc (s : State) (v : Word) : State := { s with pc := v }
def State.setSp (s : State) (v : Word) : State := { s with sp := v }
def State.setEx (s : State) (v : Word) : State := { s with ex := v }
def State.setIa (s : State) (v : Word) : State := { s with ia := v }
def State.setMem (s : State) (m : Memory) : State := { s with mem := m }
def State.setCpuState (s : State) (c : CpuState) : State := { s with cpuState := c }
def State.setIe (s : State) (e : Bool) : State := { s with ie := e }
def State.setIq (s : State) (q : List Word) : State := { s with iq := q }
def State.setT (s : State) (n : Nat) : State := { s with t := n }
def State.setWq (s : State) (q : List WakeRequest) : State := { s with wq := q }
def State.setInitPending (s : State) (e : Bool) : State := { s with initPending := e }
def State.setFlushing (s : State) (e : Bool) : State := { s with flushing := e }
def State.setDeferred (s : State) (q : List WakeRequest) : State := { s with deferred := q }
def State.setCycles (s : State) (n : Nat) : State := { s with cycles := n }
def State.setCalls (s : State) (c : List DeviceCall) : State := { s with calls := c }
def State.setDevState (s : State) (n : Nat) : State := { s with devState := n }

/-- `x[i]` of a state. -/
def State.reg (s : State) (r : Reg) : Word := s.regs.get r

/-- `MemWrite(addr, 1, v)` on a state. -/
def State.store (s : State) (addr v : Word) : State := s.setMem (s.mem.write addr v)

/-! ### The stack (R121, R122) -/

/-- `Push(v)` (R121). -/
def State.push (s : State) (v : Word) : State :=
  (s.setSp (s.sp - 1#16)).store (s.sp - 1#16) v

/-- `Pop()` (R122): the value popped and the state after; the word stays in memory. -/
def State.pop (s : State) : Word × State :=
  (s.mem.read s.sp, s.setSp (s.sp + 1#16))

/-! ### The two fatal conditions (R230) -/

/-- `raise IllegalInstruction` (R231): the step returns 0 and ends here (log 18). -/
def raiseIllegalInstruction (s : State) : State :=
  (s.setCpuState .errorIllegalInstruction).setCycles 0

/-- `Interrupt(m)` (R241), which raises `InterruptQueueFilled` (R232) on a full queue (logs 19, 22, 23). -/
def requestInterrupt (m : Word) (s : State) : State :=
  match s.cpuState with
  | .running =>
    if Config.iqCap ≤ s.iq.length then s.setCpuState .errorInterruptQueueFilled
    else s.setIq (s.iq ++ [m])
  | .errorIllegalInstruction => s
  | .errorInterruptQueueFilled => s

/-! ### Taking an interrupt and returning from one -/

/-- Trap entry with a handler installed (R246): IE off, push PC, push A, PC to the handler, A the message. -/
def takeInterrupt (m : Word) (s : State) : State :=
  let s1 := (s.setIe false).push s.pc
  let s2 := s1.push (s1.reg .a)
  (s2.setPc s2.ia).setReg .a m

/-- The loop of `DeliverInterrupts()` (R244) over the messages queued, head first; the queue is written back as what is
left. -/
def deliverFrom : List Word → State → State
  | [], s => s.setIq []
  | m :: rest, s =>
    if s.ie then
      if s.ia = 0#16 then deliverFrom rest s
      else takeInterrupt m (s.setIq rest)
    else s.setIq (m :: rest)

/-- `DeliverInterrupts()` (R244, R247; log 20). -/
def deliverInterrupts (s : State) : State := deliverFrom s.iq s

/-- Return from an interrupt (R204, R248): pop A, pop PC, IE on. -/
def returnFromInterrupt (s : State) : State :=
  let p := s.pop
  let q := (p.2.setReg .a p.1).pop
  (q.2.setPc q.1).setIe true

/-! ### The wake list (R251, R252) -/

/-- Insertion into WQ: after every request whose `endT` is not greater (R252; log 25). -/
def insertWake (q : WakeRequest) : List WakeRequest → List WakeRequest
  | [] => [q]
  | p :: rest => if p.endT ≤ q.endT then p :: insertWake q rest else q :: p :: rest

/-- `ScheduleWake(dev, cycles, ctx)` (R251; log 27): deferred while a flush runs (R254). -/
def scheduleWake (dev cycles : Nat) (ctx : Int) (s : State) : State :=
  let q : WakeRequest := { dev := dev, ctx := ctx, start := s.t, endT := s.t + cycles }
  if s.flushing then s.setDeferred (s.deferred ++ [q]) else s.setWq (insertWake q s.wq)

/-! ### The parts of a step (R100) -/

/-- R101: the frozen step changes nothing; it returns 0 and makes no callback (log 34). -/
def frozenStep (s : State) : State :=
  (s.setCycles 0).setCalls []

/-- Line 2 of R100 (R102; log 29), and the step's outputs cleared. -/
def startStep (s : State) : State :=
  ((s.setInitPending false).setCycles 0).setCalls []

/-- Lines 4, 7 and 9 of R100: the instruction at PC with its next words, from the addresses PC, PC + 1, PC + 2, modulo 65,536
(R70, R104, R116; log 6). -/
def fetch (s : State) : Except Reject Instr :=
  (decode [s.mem.read s.pc, s.mem.read (s.pc + 1#16), s.mem.read (s.pc + 2#16)]).map Prod.fst

/-- R291: `BASE_CYCLES` (log 5). -/
def baseCycles : Instr → Nat
  | .set _ _ | .and _ _ | .bor _ _ | .xor _ _ | .shr _ _ | .asr _ _ | .shl _ _ | .iag _ | .ias _ => 1
  | .add _ _ | .sub _ _ | .mul _ _ | .mli _ _ | .ifb _ _ | .ifc _ _ | .ife _ _ | .ifn _ _ => 2
  | .ifg _ _ | .ifa _ _ | .ifl _ _ | .ifu _ _ | .sti _ _ | .std _ _ | .iaq _ | .hwn _ => 2
  | .div _ _ | .dvi _ _ | .mod _ _ | .mdi _ _ | .adx _ _ | .sbx _ _ | .jsr _ | .rfi _ => 3
  | .int _ | .hwq _ | .hwi _ => 4

/-- Lines 6 and 10 of R100: PC past the whole instruction (R104; log 8) and the cost but for the surcharge (R106). -/
def beginInstr (i : Instr) (s : State) : State :=
  (s.setPc (s.pc + BitVec.ofNat 16 i.words)).setCycles (baseCycles i + (i.words - 1))

/-- Line 12 of R100 (R250). -/
def advanceT (s : State) : State := s.setT (s.t + s.cycles)

/-- The words of an instruction with the bits `w`, the first word the least significant, the bits from `nbits` up 0, stored
from PC on, in a running block with nothing queued (log 37). -/
def placeWords (s : State) (nbits w : Nat) : State :=
  let v := w % 2 ^ nbits
  let words := [BitVec.ofNat 16 v, BitVec.ofNat 16 (v / 2 ^ 16), BitVec.ofNat 16 (v / 2 ^ 32)]
  ((s.setMem (s.mem.writeList s.pc words)).setCpuState .running).setIq []

end Sys2Proof.Machine
end

