-- ==== Sys2Proof/Machine/Operands.lean ====
section
/-! DEFINITION. The operand resolver (R110 to R120) and the shapes of an operator's execution (lines 7 to 11 of R100). -/

namespace Sys2Proof.Machine

/-- What an operand resolves to (R110). -/
inductive Referent where
  | reg (r : Reg)
  | sp
  | pc
  | ex
  | memAt (addr : Word)
  | lit (v : Word)
  deriving DecidableEq, Repr

/-- The part of R111 that `a` and `b` share: no shared mode changes the state. -/
def resolveMode (m : Mode) (s : State) : Referent :=
  match m with
  | .reg r => .reg r
  | .ind r => .memAt (s.reg r)
  | .indNext r nw => .memAt (s.reg r + nw)
  | .peek => .memAt s.sp
  | .pick nw => .memAt (s.sp + nw)
  | .sp => .sp
  | .pc => .pc
  | .ex => .ex
  | .memNext nw => .memAt nw
  | .next nw => .lit nw

/-- `ResolveA` (R111): POP raises SP after its address is taken. -/
def resolveA (a : OperandA) (s : State) : Referent × State :=
  match a with
  | .mode m => (resolveMode m s, s)
  | .pop => (.memAt s.sp, s.setSp (s.sp + 1#16))
  | .lit v => (.lit v, s)

/-- `ResolveB` (R112): PUSH lowers SP before its address is taken. -/
def resolveB (b : OperandB) (s : State) : Referent × State :=
  match b with
  | .mode m => (resolveMode m s, s)
  | .push => (.memAt (s.sp - 1#16), s.setSp (s.sp - 1#16))

/-- `Read(ref)` (R118). -/
def State.readRef (s : State) : Referent → Word
  | .reg r => s.reg r
  | .sp => s.sp
  | .pc => s.pc
  | .ex => s.ex
  | .memAt addr => s.mem.read addr
  | .lit v => v

/-- `Write(ref, v)` (R119): a write to a literal is dropped (log 7). -/
def State.writeRef (s : State) (r : Referent) (v : Word) : State :=
  match r with
  | .reg r => s.setReg r v
  | .sp => s.setSp v
  | .pc => s.setPc v
  | .ex => s.setEx v
  | .memAt addr => s.store addr v
  | .lit _ => s

/-- Lines 7 to 9 of R100 for a normal-format instruction: the referent of `b`, `vb`, `va` and the state after both operands
are resolved, `a` with its SP change first (R105, R114; logs 9, 10). -/
structure Resolved where
  refB : Referent
  vb : Word
  va : Word
  state : State
  deriving DecidableEq, Repr

/-- Both operands resolved and read (R105, R114, R120: every input is read before any write). -/
def resolveBoth (b : OperandB) (a : OperandA) (s : State) : Resolved :=
  let ra := resolveA a s
  let va := ra.2.readRef ra.1
  let rb := resolveB b ra.2
  { refB := rb.1, vb := rb.2.readRef rb.1, va := va, state := rb.2 }

/-- The shape of an operator that writes `b` only. -/
def writeResult (f : Word → Word → Word) (b : OperandB) (a : OperandA) (s : State) : State :=
  let r := resolveBoth b a s
  r.state.writeRef r.refB (f r.vb r.va)

/-- The shape of an operator that writes `b` and then EX (R120; log 11). -/
def writeResultEx (f ex : Word → Word → Word) (b : OperandB) (a : OperandA) (s : State) : State :=
  let r := resolveBoth b a s
  (r.state.writeRef r.refB (f r.vb r.va)).setEx (ex r.vb r.va)

/-- The shape of STI and STD: `b`, then I and J moved by `d` (R120, R192, R193). -/
def writeAndStep (d : Word) (b : OperandB) (a : OperandA) (s : State) : State :=
  let r := resolveBoth b a s
  let t := r.state.writeRef r.refB r.va
  let u := t.setReg .i (t.reg .i + d)
  u.setReg .j (u.reg .j + d)

/-- The shape of a special operator that reads `a` (lines 7 and 8 of R100). -/
def withValueA (a : OperandA) (s : State) (k : Word → State → State) : State :=
  let ra := resolveA a s
  k (ra.2.readRef ra.1) ra.2

/-- The shape of a special operator that writes `a`. -/
def writeA (a : OperandA) (s : State) (v : Word) : State :=
  let ra := resolveA a s
  ra.2.writeRef ra.1 v

/-- The skip chain of R178, with fuel; out of fuel, the chain never ends (R180; logs 17, 33). -/
def skipChain : Nat → State → Host.Outcome State Fault Refusal
  | 0, _ => .fault .skipChainNeverEnds
  | fuel + 1, s =>
    match decodeWord (s.mem.read s.pc) with
    | .error _ => .next (raiseIllegalInstruction s)
    | .ok i =>
      let t := (s.setPc (s.pc + BitVec.ofNat 16 i.words)).setCycles (s.cycles + 1)
      if i.isConditional then skipChain fuel t else .next t

/-- The fuel of R180: PC has 65,536 values, so a chain that has not ended after as many iterations never does. -/
def skipFuel : Nat := 65536

/-- `ExecuteConditional` (R178) with the predicate `c` of `vb` and `va`. -/
def executeConditional (c : Word → Word → Bool) (b : OperandB) (a : OperandA) (s : State) :
    Host.Outcome State Fault Refusal :=
  let r := resolveBoth b a s
  if c r.vb r.va then .next r.state else skipChain skipFuel r.state

end Sys2Proof.Machine
end

