-- ==== Sys2Proof/Machine/Arith.lean ====
section
/-! DEFINITION. The move and arithmetic operators (R140 to R151). -/

namespace Sys2Proof.Machine

/-- SET b, a (R140): b takes the value of a. -/
def execSet (b : OperandB) (a : OperandA) (s : State) : Host.Outcome State Fault Refusal :=
  .next (writeResult (fun _ va => va) b a s)

/-- ADD b, a (R141): the sum, EX its carry. -/
def execAdd (b : OperandB) (a : OperandA) (s : State) : Host.Outcome State Fault Refusal :=
  .next (writeResultEx (fun vb va => u16 (addExact vb va)) (fun vb va => hi16 (addExact vb va)) b a s)

/-- SUB b, a (R142): b minus a, EX the borrow. -/
def execSub (b : OperandB) (a : OperandA) (s : State) : Host.Outcome State Fault Refusal :=
  .next (writeResultEx (fun vb va => u16 (subExact vb va)) (fun vb va => hi16 (subExact vb va)) b a s)

/-- MUL b, a (R143): the unsigned product, EX its high half. -/
def execMul (b : OperandB) (a : OperandA) (s : State) : Host.Outcome State Fault Refusal :=
  .next (writeResultEx (fun vb va => u16 (mulExact vb va)) (fun vb va => hi16 (mulExact vb va)) b a s)

/-- MLI b, a (R144): the signed product, EX its high half. -/
def execMli (b : OperandB) (a : OperandA) (s : State) : Host.Outcome State Fault Refusal :=
  .next (writeResultEx (fun vb va => u16 (mliExact vb va)) (fun vb va => hi16 (mliExact vb va)) b a s)

/-- DIV b, a (R145): the unsigned quotient, EX its fraction. -/
def execDiv (b : OperandB) (a : OperandA) (s : State) : Host.Outcome State Fault Refusal :=
  .next (writeResultEx divResult divEx b a s)

/-- DVI b, a (R146): the signed quotient, EX its fraction. -/
def execDvi (b : OperandB) (a : OperandA) (s : State) : Host.Outcome State Fault Refusal :=
  .next (writeResultEx dviResult dviEx b a s)

/-- MOD b, a (R147): the unsigned remainder, EX untouched. -/
def execMod (b : OperandB) (a : OperandA) (s : State) : Host.Outcome State Fault Refusal :=
  .next (writeResult modResult b a s)

/-- MDI b, a (R148): the signed remainder, EX untouched. -/
def execMdi (b : OperandB) (a : OperandA) (s : State) : Host.Outcome State Fault Refusal :=
  .next (writeResult mdiResult b a s)

end Sys2Proof.Machine
end

