-- ==== Sys2Proof/Machine/Bitwise.lean ====
section
/-! DEFINITION. The bitwise and shift operators (R160 to R166). -/

namespace Sys2Proof.Machine

/-- AND b, a (R160). -/
def execAnd (b : OperandB) (a : OperandA) (s : State) : Host.Outcome State Fault Refusal :=
  .next (writeResult (fun vb va => vb &&& va) b a s)

/-- BOR b, a (R161). -/
def execBor (b : OperandB) (a : OperandA) (s : State) : Host.Outcome State Fault Refusal :=
  .next (writeResult (fun vb va => vb ||| va) b a s)

/-- XOR b, a (R162). -/
def execXor (b : OperandB) (a : OperandA) (s : State) : Host.Outcome State Fault Refusal :=
  .next (writeResult (fun vb va => vb ^^^ va) b a s)

/-- SHR b, a (R163): logical shift right. -/
def execShr (b : OperandB) (a : OperandA) (s : State) : Host.Outcome State Fault Refusal :=
  .next (writeResultEx shrResult shrEx b a s)

/-- ASR b, a (R164): arithmetic shift right, EX with zero fill as in SHR. -/
def execAsr (b : OperandB) (a : OperandA) (s : State) : Host.Outcome State Fault Refusal :=
  .next (writeResultEx asrResult shrEx b a s)

/-- SHL b, a (R165): shift left. -/
def execShl (b : OperandB) (a : OperandA) (s : State) : Host.Outcome State Fault Refusal :=
  .next (writeResultEx shlResult shlEx b a s)

end Sys2Proof.Machine
end

