-- ==== Sys2Proof/Machine/CarryIndex.lean ====
section
/-! DEFINITION. Carry-chained arithmetic and indexed moves (R190 to R193). -/

namespace Sys2Proof.Machine

/-- ADX b, a (R190): EX is read, whole, before any write and written last (log 14). -/
def execAdx (b : OperandB) (a : OperandA) (s : State) : Host.Outcome State Fault Refusal :=
  let ex := (resolveBoth b a s).state.ex
  .next (writeResultEx (fun vb va => u16 (adxExact vb va ex)) (fun vb va => hi16 (adxExact vb va ex)) b a s)

/-- SBX b, a (R191): EX is read, whole, before any write and written last (log 14). -/
def execSbx (b : OperandB) (a : OperandA) (s : State) : Host.Outcome State Fault Refusal :=
  let ex := (resolveBoth b a s).state.ex
  .next (writeResultEx (fun vb va => u16 (sbxExact vb va ex)) (fun vb va => hi16 (sbxExact vb va ex)) b a s)

/-- STI b, a (R192): b takes the value of a, then I and J go up by 1. -/
def execSti (b : OperandB) (a : OperandA) (s : State) : Host.Outcome State Fault Refusal :=
  .next (writeAndStep 1#16 b a s)

/-- STD b, a (R193): b takes the value of a, then I and J go down by 1. -/
def execStd (b : OperandB) (a : OperandA) (s : State) : Host.Outcome State Fault Refusal :=
  .next (writeAndStep 0xFFFF#16 b a s)

end Sys2Proof.Machine
end

