-- ==== Sys2Proof/Machine/Conditional.lean ====
section
/-! DEFINITION. The conditional operators (R170 to R181). -/

namespace Sys2Proof.Machine

/-- IFB b, a (R170, R178; log 15). -/
def execIfb (b : OperandB) (a : OperandA) (s : State) : Host.Outcome State Fault Refusal :=
  executeConditional testIfb b a s

/-- IFC b, a (R171, R178; log 15). -/
def execIfc (b : OperandB) (a : OperandA) (s : State) : Host.Outcome State Fault Refusal :=
  executeConditional testIfc b a s

/-- IFE b, a (R172, R178; log 15). -/
def execIfe (b : OperandB) (a : OperandA) (s : State) : Host.Outcome State Fault Refusal :=
  executeConditional testIfe b a s

/-- IFN b, a (R173, R178; log 15). -/
def execIfn (b : OperandB) (a : OperandA) (s : State) : Host.Outcome State Fault Refusal :=
  executeConditional testIfn b a s

/-- IFG b, a (R174, R178; log 15). -/
def execIfg (b : OperandB) (a : OperandA) (s : State) : Host.Outcome State Fault Refusal :=
  executeConditional testIfg b a s

/-- IFA b, a (R175, R178; log 15). -/
def execIfa (b : OperandB) (a : OperandA) (s : State) : Host.Outcome State Fault Refusal :=
  executeConditional testIfa b a s

/-- IFL b, a (R176, R178; log 15). -/
def execIfl (b : OperandB) (a : OperandA) (s : State) : Host.Outcome State Fault Refusal :=
  executeConditional testIfl b a s

/-- IFU b, a (R177, R178; log 15). -/
def execIfu (b : OperandB) (a : OperandA) (s : State) : Host.Outcome State Fault Refusal :=
  executeConditional testIfu b a s

end Sys2Proof.Machine
end

