-- ==== Sys2Proof/Machine/Control.lean ====
section
/-! DEFINITION. The special operators for control and interrupts (R200 to R205). -/

namespace Sys2Proof.Machine

/-- JSR a (R200): push the address of the next instruction, jump to a. -/
def execJsr (a : OperandA) (s : State) : Host.Outcome State Fault Refusal :=
  .next (withValueA a s fun va t => (t.push t.pc).setPc va)

/-- INT a (R201): request an interrupt with message a. -/
def execInt (a : OperandA) (s : State) : Host.Outcome State Fault Refusal :=
  .next (withValueA a s fun va t => requestInterrupt va t)

/-- IAG a (R202): a takes IA. -/
def execIag (a : OperandA) (s : State) : Host.Outcome State Fault Refusal :=
  .next (writeA a s s.ia)

/-- IAS a (R203): IA takes a. -/
def execIas (a : OperandA) (s : State) : Host.Outcome State Fault Refusal :=
  .next (withValueA a s fun va t => t.setIa va)

/-- RFI a (R204): return from interrupt; a is resolved and its value ignored. -/
def execRfi (a : OperandA) (s : State) : Host.Outcome State Fault Refusal :=
  .next (withValueA a s fun _ t => returnFromInterrupt t)

/-- IAQ a (R205): IE is whether a is 0 (log 21). -/
def execIaq (a : OperandA) (s : State) : Host.Outcome State Fault Refusal :=
  .next (withValueA a s fun va t => t.setIe (va == 0#16))

end Sys2Proof.Machine
end

