-- ==== Sys2Proof/Machine/Surface.lean ====
section
/-! DEFINITION. The surface of the block towards its surroundings: the operations devices (R258) and the host (R263) have, the
two device callbacks (R256, R257) and the flush (R254). -/

namespace Sys2Proof.Machine

/-- A register read by name (R39). -/
def State.getNamed (s : State) : RegName → Word
  | .general r => s.reg r
  | .pc => s.pc
  | .sp => s.sp
  | .ex => s.ex
  | .ia => s.ia

/-- A register written by name (R39). -/
def State.setNamed (s : State) (r : RegName) (v : Word) : State :=
  match r with
  | .general r => s.setReg r v
  | .pc => s.setPc v
  | .sp => s.setSp v
  | .ex => s.setEx v
  | .ia => s.setIa v

/-- What the surface shows: the twelve registers, memory and `state()` (R258; log 28). -/
def State.view (s : State) : View where
  register := s.getNamed
  memory := s.mem.read
  cpuState := s.cpuState

/-- One operation of R258. The host's actions between steps (R14, R39, R263) are the same operations (log 35). -/
def applyAction (act : Action) (s : State) : State :=
  match act with
  | .setRegister r v => s.setNamed r v
  | .writeMemory addr v => s.store addr v
  | .interrupt m => requestInterrupt m s
  | .scheduleWake dev cycles ctx => scheduleWake dev cycles ctx s

/-- A sequence of operations, first to last. -/
def applyActions (acts : List Action) (s : State) : State :=
  acts.foldl (fun t act => applyAction act t) s

/-- A `HostAction` transition (R14): operations of the host, or of a device, at a step boundary. -/
def hostActions (acts : List Action) (s : State) : State := applyActions acts s

/-- The host loads `IMAGE` from address 0 on, before the first step (R283; log 2). -/
def loadImage (image : List Word) (s : State) : State :=
  s.setMem (s.mem.writeList 0#16 image)

/-- `attachedDeviceCount()` (R223, R263). -/
def attachedDeviceCount : Nat := Config.ndev

/-- `attachedDevice(i)`: the identity of a device (R223, R260). -/
def attachedDevice (i : Nat) : Option DeviceIdentity := Config.devices[i]?

/-- `clockSpeed()` (R261). -/
def clockSpeed : Nat := Config.clockHz

/-- `state()` and `error()` (R28, N26). -/
def readCpuState (s : State) : CpuState := s.cpuState

/-- A device called with the reaction `react` (R256, R257): the call is recorded, the operations are performed in order, and
the extra cycles are given back. -/
def callDevice (react : Nat → DeviceCall → View → Reaction) (call : DeviceCall) (s : State) : Nat × State :=
  let r := react s.devState call s.view
  (r.extra, applyActions r.actions ((s.setDevState r.devState).setCalls (s.calls ++ [call])))

/-- The loop of `Flush()` (R254), with as much fuel as WQ has requests: while a flush runs WQ only loses requests. -/
def flushLoop (react : Nat → DeviceCall → View → Reaction) : Nat → State → State
  | 0, s => s
  | fuel + 1, s =>
    match s.wq with
    | [] => s
    | q :: rest =>
      if q.endT ≤ s.t then
        flushLoop react fuel (callDevice react (.wake q.dev (s.t - q.start) q.ctx) (s.setWq rest)).2
      else s

/-- The end of `Flush()` (R254): the requests made during the flush enter WQ, in the order requested. -/
def admitDeferred (s : State) : State :=
  ((s.setFlushing false).setWq (s.deferred.foldl (fun wq q => insertWake q wq) s.wq)).setDeferred []

/-- `Flush()` (R254; log 26) with the reaction `react`. -/
def flushWith (react : Nat → DeviceCall → View → Reaction) (s : State) : State :=
  admitDeferred (flushLoop react s.wq.length (s.setFlushing true))

/-- `Flush()` with the attached devices. -/
def flush (s : State) : State := flushWith Config.deviceReaction s

/-- Lines 12 and 13 of R100, which do not run in a step that raised `IllegalInstruction` (R107; logs 18, 23). -/
def endStep (s : State) : State :=
  match s.cpuState with
  | .errorIllegalInstruction => s
  | .running => flush (advanceT s)
  | .errorInterruptQueueFilled => flush (advanceT s)

/-- HWI on the device `va` (R222): the callback, its extra cycles added to the step's cost; nothing for an index out of
range (R224). -/
def hwiWith (ndev : Nat) (react : Nat → DeviceCall → View → Reaction) (va : Word) (s : State) : State :=
  if va.toNat < ndev then
    let r := callDevice react (.interrupt va.toNat) s
    r.2.setCycles (r.2.cycles + r.1)
  else s

/-- HWQ on the device `va` (R221; log 16); nothing for an index out of range (R224). -/
def hwqWith (devices : List DeviceIdentity) (va : Word) (s : State) : State :=
  match devices[va.toNat]? with
  | none => s
  | some d =>
    ((((s.setReg .a (d.id.extractLsb' 0 16)).setReg .b (d.id.extractLsb' 16 16)).setReg .c d.version).setReg .x
      (d.manufacturer.extractLsb' 0 16)).setReg .y (d.manufacturer.extractLsb' 16 16)

end Sys2Proof.Machine
end

