-- ==== Sys2Proof/Machine/Hardware.lean ====
section
/-! DEFINITION. The hardware-access operators (R220 to R225). -/

namespace Sys2Proof.Machine

/-- HWN a (R220): a takes the number of devices, modulo 65,536 (log 31). -/
def execHwn (a : OperandA) (s : State) : Host.Outcome State Fault Refusal :=
  .next (writeA a s (BitVec.ofNat 16 Config.ndev))

/-- HWQ a (R221): A, B, C, X, Y take the identity of device a. -/
def execHwq (a : OperandA) (s : State) : Host.Outcome State Fault Refusal :=
  .next (withValueA a s fun va t => hwqWith Config.devices va t)

/-- HWI a (R222): a software interrupt to device a. -/
def execHwi (a : OperandA) (s : State) : Host.Outcome State Fault Refusal :=
  .next (withValueA a s fun va t => hwiWith Config.ndev Config.deviceReaction va t)

end Sys2Proof.Machine
end

