-- ==== Sys2Proof/Machine/Step.lean ====
section
/-! DEFINITION. One step of the block (R100). -/

namespace Sys2Proof.Machine

/-- Lines 6 to 14 of R100 for a decoded instruction. -/
def runInstr (i : Instr) (s : State) : Host.Outcome State Fault Refusal :=
  match exec i (beginInstr i s) with
  | .next t => .next (endStep t)
  | .fault f => .fault f
  | .refused r => .refused r

/-- Lines 3 to 14 of R100: deliver, fetch, and run the instruction or freeze on an illegal word. -/
def runningStep (s : State) : Host.Outcome State Fault Refusal :=
  let s1 := deliverInterrupts (startStep s)
  match fetch s1 with
  | .error _ => .next (raiseIllegalInstruction s1)
  | .ok i => runInstr i s1

/-- `Step()` (R100); the frozen step is a next state (R101; log 32). -/
def step (s : State) : Host.Outcome State Fault Refusal :=
  match s.cpuState with
  | .running => runningStep s
  | .errorIllegalInstruction => .next (frozenStep s)
  | .errorInterruptQueueFilled => .next (frozenStep s)

/-- The state in which the very next step fetches and runs the instruction with the bits `w` (log 37). -/
def State.withFetchWord (s : State) (nbits w : Nat) : State :=
  placeWords s nbits w

end Sys2Proof.Machine
end

