-- ==== Sys2Proof/Safety.lean ====
section
/-! DEFINITION. What claims mean by a sound state and a safe one. -/

namespace Sys2Proof.Machine

/-- R234: a frozen block; never a final state of a successful run. -/
def State.Frozen (s : State) : Prop := s.cpuState ≠ .running

/-- R37: what holds at every step boundary. -/
structure State.Inv (s : State) : Prop where
  mem : s.mem.wf = true
  queue : s.iq.length ≤ Config.iqCap
  wakes : s.wq.Pairwise fun p q => p.endT ≤ q.endT
  notFlushing : s.flushing = false
  noDeferred : s.deferred = []

/-- A run goes well for `n` steps: every state it reaches exists and is not frozen (R234, R263). -/
def SafeFor : Nat → State → Prop
  | 0, s => ¬ s.Frozen
  | n + 1, s => ¬ s.Frozen ∧ ∃ t, step s = .next t ∧ SafeFor n t

/-- What no operand and no write through a referent touches. -/
structure SameControl (s u : State) : Prop where
  ia : u.ia = s.ia
  cpuState : u.cpuState = s.cpuState
  ie : u.ie = s.ie
  iq : u.iq = s.iq
  time : u.t = s.t
  wq : u.wq = s.wq
  initPending : u.initPending = s.initPending
  flushing : u.flushing = s.flushing
  deferred : u.deferred = s.deferred
  cycles : u.cycles = s.cycles
  calls : u.calls = s.calls
  devState : u.devState = s.devState

/-- The change of SP by `a` (R73). -/
def spAfterA (a : OperandA) (sp : Word) : Word :=
  match a with
  | .pop => sp + 1#16
  | .mode _ => sp
  | .lit _ => sp

/-- The change of SP by `b` (R74). -/
def spAfterB (b : OperandB) (sp : Word) : Word :=
  match b with
  | .push => sp - 1#16
  | .mode _ => sp

/-- What an operator that writes `b` leaves unchanged, EX apart: everything but the referent of `b`, with SP moved by the
operands alone (R114, R119). The address stored to is the one in the referent. -/
structure FrameB (b : OperandB) (a : OperandA) (s u : State) : Prop where
  regs : ∀ g, (resolveBoth b a s).refB ≠ .reg g → u.reg g = s.reg g
  sp : (resolveBoth b a s).refB ≠ .sp → u.sp = spAfterB b (spAfterA a s.sp)
  pc : (resolveBoth b a s).refB ≠ .pc → u.pc = s.pc
  mem : ∀ x, (resolveBoth b a s).refB ≠ .memAt x → u.mem.read x = s.mem.read x
  control : SameControl s u

/-- What a special operator that writes `a` leaves unchanged (R119). -/
structure FrameA (a : OperandA) (s u : State) : Prop where
  regs : ∀ g, (resolveA a s).1 ≠ .reg g → u.reg g = s.reg g
  sp : (resolveA a s).1 ≠ .sp → u.sp = spAfterA a s.sp
  pc : (resolveA a s).1 ≠ .pc → u.pc = s.pc
  ex : (resolveA a s).1 ≠ .ex → u.ex = s.ex
  mem : ∀ x, (resolveA a s).1 ≠ .memAt x → u.mem.read x = s.mem.read x
  control : SameControl s u

/-- The value an operator reads from `a` (lines 7 and 8 of R100). -/
def valueA (a : OperandA) (s : State) : Word :=
  (resolveA a s).2.readRef (resolveA a s).1

/-- The eight conditionals with what each tests of `vb` and `va` (R170 to R177). -/
def conditionalTable (b : OperandB) (a : OperandA) : List (Instr × (Word → Word → Prop)) :=
  [(.ifb b a, fun vb va => ∃ k, vb.getLsbD k = true ∧ va.getLsbD k = true),
   (.ifc b a, fun vb va => ¬ ∃ k, vb.getLsbD k = true ∧ va.getLsbD k = true),
   (.ife b a, fun vb va => vb = va),
   (.ifn b a, fun vb va => vb ≠ va),
   (.ifg b a, fun vb va => vb > va),
   (.ifa b a, fun vb va => vb.toInt > va.toInt),
   (.ifl b a, fun vb va => vb < va),
   (.ifu b a, fun vb va => vb.toInt < va.toInt)]

/-- `n` conditional instructions stand in memory one after the other from `pc` on, and `pc'` is the address after them. -/
inductive CondRun (m : Memory) : Word → Nat → Word → Prop where
  | none (pc : Word) : CondRun m pc 0 pc
  | more (pc : Word) (i : Instr) (n : Nat) (pc' : Word) : decodeWord (m.read pc) = .ok i → i.isConditional = true →
      CondRun m (pc + BitVec.ofNat 16 i.words) n pc' → CondRun m pc (n + 1) pc'

/-- The wake requests among a sequence of operations made at time `t` (R251), in order. -/
def requestsOf (t : Nat) (acts : List Action) : List WakeRequest :=
  acts.filterMap fun act =>
    match act with
    | .scheduleWake dev cycles ctx => some { dev := dev, ctx := ctx, start := t, endT := t + cycles }
    | .setRegister _ _ => none
    | .writeMemory _ _ => none
    | .interrupt _ => none

/-- The order of the general registers (R20, R21). -/
def regOrder : List Reg := [.a, .b, .c, .x, .y, .z, .i, .j]

/-- `extra(f)` of R75 on a field value. -/
def extraOfField (f : Nat) : Nat :=
  if (0x10 ≤ f ∧ f ≤ 0x17) ∨ f = 0x1a ∨ f = 0x1e ∨ f = 0x1f then 1 else 0

/-- `words(w)` of R75 on a word. -/
def wordsOfWord (w : Nat) : Nat :=
  1 + extraOfField (w / 1024) + (if w % 32 = 0 then 0 else extraOfField (w / 32 % 32))

/-- The normal-format operators that write EX (R24). -/
def writesEx (b : OperandB) (a : OperandA) : List Instr :=
  [.add b a, .sub b a, .mul b a, .mli b a, .div b a, .dvi b a, .shr b a, .asr b a, .shl b a, .adx b a, .sbx b a]

/-- The normal-format operators that write `b` and nothing else (R140, R147, R148, R160 to R162). -/
def writesBOnly (b : OperandB) (a : OperandA) : List Instr :=
  [.set b a, .mod b a, .mdi b a, .and b a, .bor b a, .xor b a]

end Sys2Proof.Machine
end

