-- ==== Sys2Proof/Certificates/Slice0/Obligations.lean ====
section
/-! DEFINITION. The statements for the provers. A statement names the log entries (`notes/assumptions/<n>.md`) it rests on. -/

open Sys2Proof Sys2Proof.Machine

/-- R81. For every well-formed instruction and any words after it, decode of its encoding gives the instruction and the words
after it; the first word is af * 1024 + bf * 32 + o in the normal format and af * 1024 + so * 32 in the special format (R81).
-/
def Obligations.EncodeThenDecodeGivesTheInstruction : Prop :=
  (∀ (i : Instr) (rest : List Word), i.wellFormed = true → decode (encode i ++ rest) = .ok (i, rest)) ∧
  (∀ (o : BitVec 5) (b : OperandB) (a : OperandA), (encodeNormal o b a).head?.map BitVec.toNat =
    some (a.field.toNat * 1024 + b.field.toNat * 32 + o.toNat)) ∧
  (∀ (so : BitVec 5) (a : OperandA), (encodeSpecial so a).head?.map BitVec.toNat =
    some (a.field.toNat * 1024 + so.toNat * 32))

/-- 30_encoding.md R80, R81. If a list of words decodes to an instruction with some words left, then the instruction is well
formed and the list is its encoding followed by those words: no two lists of words share a decoding, and no bit is dropped. -/
def Obligations.DecodedWordsAreTheEncoding : Prop :=
  ∀ (ws : List Word) (i : Instr) (rest : List Word), decode ws = .ok (i, rest) →
    i.wellFormed = true ∧ ws = encode i ++ rest

/-- 30_encoding.md R78. A word decodes to nothing exactly when its opcode is 0x18, 0x19, 0x1c or 0x1d, or its opcode is 0 and
its special opcode is 0x00, 0x02 to 0x07, 0x0d to 0x0f or 0x13 to 0x1f. The slot numbers are the defaults the spec marks as
general knowledge (D3; log 4). -/
def Obligations.IllegalWordsAreTheUnmappedSlots : Prop :=
  ∀ w : Word, (∃ e, decodeWord w = .error e) ↔
    (w.toNat % 32 = 0x18 ∨ w.toNat % 32 = 0x19 ∨ w.toNat % 32 = 0x1c ∨ w.toNat % 32 = 0x1d ∨
      (w.toNat % 32 = 0 ∧
        (w.toNat / 32 % 32 = 0 ∨ (0x02 ≤ w.toNat / 32 % 32 ∧ w.toNat / 32 % 32 ≤ 0x07) ∨
          (0x0d ≤ w.toNat / 32 % 32 ∧ w.toNat / 32 % 32 ≤ 0x0f) ∨ 0x13 ≤ w.toNat / 32 % 32)))

/-- 30_encoding.md R70, 30_encoding.md R75, 30_encoding.md R80. If a list of words decodes, the instruction has 1 + extra(af)
+ extra(bf) words (normal format) or 1 + extra(af) (special format), computed from its first word, and that many are consumed;
with two next words at hand a word decodes whatever they are or never, with the same length, base cost and kind as Decode of
the word alone; both instructions have that word as the first word of their encoding, so the operator and the mode of each
operand are the same and only the next words carried by the operands can differ. -/
def Obligations.FirstWordDecidesEverythingButNextWords : Prop :=
  (∀ (w : Word) (ws : List Word) (i : Instr) (rest : List Word), decode (w :: ws) = .ok (i, rest) →
    i.words = wordsOfWord w.toNat ∧ ws.length + 1 = i.words + rest.length) ∧
  (∀ w n1 n2 : Word,
    ((∃ e, decodeWord w = .error e) ∧ (∃ e, decode [w, n1, n2] = .error e)) ∨
    (∃ i j rest, decodeWord w = .ok i ∧ decode [w, n1, n2] = .ok (j, rest) ∧ (encode i).head? = some w ∧
      (encode j).head? = some w ∧ i.words = j.words ∧ i.isConditional = j.isConditional ∧ baseCycles i = baseCycles j))

/-- 95_test_vectors.md section 2.1, 30_encoding.md R73. Decode vectors V0.4, V0.5, V0.6, V0.20, V0.23 and V0.25 of the spec
(opcode numbers: D3, log 4; the literals 30 and 0: deduced, D4, log 39; the numbers of the registers I and J: deduced, log
40). -/
def Obligations.DecodesSampleWords : Prop :=
  decode [0x7fc1#16, 1#16, 2#16] = .ok (.set (.mode (.memNext 2#16)) (.mode (.next 1#16)), []) ∧
  decode [0x6301#16] = .ok (.set .push .pop, []) ∧
  decode [0xffff#16, 5#16] = .ok (.std (.mode (.next 5#16)) (.lit 30#16), []) ∧
  decode [0x8560#16] = .ok (.rfi (.lit 0#16), []) ∧
  decode [0x87f2#16, 1#16] = .ok (.ife (.mode (.next 1#16)) (.lit 0#16), []) ∧
  decode [0x5ec1#16, 3#16, 4#16] = .ok (.set (.mode (.indNext .i 4#16)) (.mode (.indNext .j 3#16)), [])

/-- 20_memory.md R50. In a memory in canonical form, after MemWrite(a, v) address a reads v, every other address reads as
before, and the memory is in canonical form again (R50; the canonical form is the model's, logs 1 and 2). -/
def Obligations.MemoryReadsWhatWasWritten : Prop :=
  ∀ (m : Memory) (a v : Word), m.wf = true →
    (m.write a v).read a = v ∧ (∀ x, x ≠ a → (m.write a v).read x = m.read x) ∧ (m.write a v).wf = true

/-- 20_memory.md R50, 10_state.md R27. The canonical form is canonical: two memories in it that read the same at every address
are the same data. The form is the model's own (logs 1 and 2). -/
def Obligations.EqualContentsAreEqualMemories : Prop :=
  ∀ m m' : Memory, m.wf = true → m'.wf = true → (∀ a, m.read a = m'.read a) → m = m'

/-- 40_step_and_operands.md R111. For every value of the field, the operand it decodes to with the next word nw resolves as
the table of ResolveA says: the referent, and the state after, which is the state before but for POP. Two clauses are
deductions and not the source's own words: the value of a literal is field - 0x21 (D4; log 39), and the registers are numbered
in the order of the list A, B, C, X, Y, Z, I, J (R21; log 40). -/
def Obligations.OperandATable : Prop :=
  ∀ (f : BitVec 6) (nw : Word) (s : State), ∃ a rest, decodeA f [nw] = .ok (a, rest) ∧ resolveA a s =
    (if f.toNat < 0x08 then (.reg (regOrder.getD f.toNat .a), s)
     else if f.toNat < 0x10 then (.memAt (s.reg (regOrder.getD (f.toNat - 0x08) .a)), s)
     else if f.toNat < 0x18 then (.memAt (s.reg (regOrder.getD (f.toNat - 0x10) .a) + nw), s)
     else if f.toNat = 0x18 then (.memAt s.sp, { s with sp := s.sp + 1#16 })
     else if f.toNat = 0x19 then (.memAt s.sp, s)
     else if f.toNat = 0x1a then (.memAt (s.sp + nw), s)
     else if f.toNat = 0x1b then (.sp, s)
     else if f.toNat = 0x1c then (.pc, s)
     else if f.toNat = 0x1d then (.ex, s)
     else if f.toNat = 0x1e then (.memAt nw, s)
     else if f.toNat = 0x1f then (.lit nw, s)
     else (.lit (BitVec.ofInt 16 (f.toNat - 0x21)), s))

/-- R112. For every value of the field but 0x18 the operand it decodes to resolves as the operand-A field of that value does;
0x18 is PUSH, which lowers SP by one and refers to memory at the new SP. -/
def Obligations.OperandBDiffersInPushOnly : Prop :=
  ∀ (f : BitVec 5) (nw : Word) (s : State), ∃ b rest, decodeB f [nw] = .ok (b, rest) ∧
    (f.toNat ≠ 0x18 → ∃ a, decodeA (f.setWidth 6) [nw] = .ok (a, rest) ∧ resolveB b s = resolveA a s) ∧
    (f.toNat = 0x18 → resolveB b s = (.memAt (s.sp - 1#16), { s with sp := s.sp - 1#16 }))

/-- 40_step_and_operands.md R118, 40_step_and_operands.md R119. In every state Read gives, for each kind of referent, the
register, SP, PC, EX, the word at the address, or the literal value itself (R118). In a state whose memory is in canonical
form (logs 1 and 2), after Write(ref, v) the referent reads v; every other register, SP, PC, EX and memory word and all
control state are as before; a write to a literal changes nothing (that clause: D5; log 7). -/
def Obligations.WriteThroughReferent : Prop :=
  (∀ s : State, (∀ g, s.readRef (.reg g) = s.reg g) ∧ s.readRef .sp = s.sp ∧ s.readRef .pc = s.pc ∧
    s.readRef .ex = s.ex ∧ (∀ x, s.readRef (.memAt x) = s.mem.read x) ∧ (∀ w, s.readRef (.lit w) = w)) ∧
  (∀ (s : State) (r : Referent) (v : Word), s.mem.wf = true →
    ((∀ w, r ≠ .lit w) → (s.writeRef r v).readRef r = v) ∧
    (∀ w, r = .lit w → s.writeRef r v = s) ∧
    (∀ g, r ≠ .reg g → (s.writeRef r v).reg g = s.reg g) ∧
    (r ≠ .sp → (s.writeRef r v).sp = s.sp) ∧
    (r ≠ .pc → (s.writeRef r v).pc = s.pc) ∧
    (r ≠ .ex → (s.writeRef r v).ex = s.ex) ∧
    (∀ x, r ≠ .memAt x → (s.writeRef r v).mem.read x = s.mem.read x) ∧
    SameControl s (s.writeRef r v))

/-- 40_step_and_operands.md R105, 40_step_and_operands.md R112, 40_step_and_operands.md R113, 40_step_and_operands.md R114.
Resolving both operands changes SP only, by the combined dSP; the value of a is read before b is resolved, so a = SP under b =
PUSH is the old SP; b refers to what it refers to in the state with the SP that a left, for every b and every a: PUSH after
POP refers to the slot popped, PEEK and PICK of b use the SP that POP left (D7, D8; logs 9, 10). -/
def Obligations.OperandsResolveInOrder : Prop :=
  ∀ (b : OperandB) (a : OperandA) (s : State),
    (resolveBoth b a s).state = { s with sp := spAfterB b (spAfterA a s.sp) } ∧
    (resolveBoth b a s).va = valueA a s ∧
    (resolveBoth b a s).vb = (resolveBoth b a s).state.readRef (resolveBoth b a s).refB ∧
    (resolveBoth b a s).refB = (resolveB b { s with sp := spAfterA a s.sp }).1 ∧
    (resolveBoth .push (.mode .sp) s).va = s.sp ∧
    (resolveBoth .push .pop s).refB = .memAt s.sp ∧
    (resolveBoth (.mode .peek) .pop s).refB = .memAt (s.sp + 1#16) ∧
    (∀ nw, (resolveBoth (.mode (.pick nw)) .pop s).refB = .memAt (s.sp + 1#16 + nw)) ∧
    (∀ m : Mode, m ≠ .peek → (∀ nw, m ≠ .pick nw) → (resolveBoth (.mode m) a s).refB = (resolveB (.mode m) s).1)

/-- 40_step_and_operands.md R114, 90_conflicts.md C6. In a state whose memory is in canonical form, executing SET PUSH, POP
answers that very state (C6, D7; log 9). -/
def Obligations.SetPushPopChangesNothing : Prop :=
  ∀ s : State, s.mem.wf = true → exec (.set .push .pop) s = .next s

/-- 41_move_arith.md R140. In a state whose memory is in canonical form, SET answers a next state in which the referent of b,
unless a literal, reads the value a had before b was resolved; everything else, EX too, is as before but for the SP changes of
the operands. -/
def Obligations.SetMovesA : Prop :=
  ∀ (b : OperandB) (a : OperandA) (s : State), s.mem.wf = true → let r := resolveBoth b a s
    ∃ t, exec (.set b a) s = .next t ∧ ((∀ w, r.refB ≠ .lit w) → t.readRef r.refB = valueA a s) ∧
      FrameB b a s t ∧ (r.refB ≠ .ex → t.ex = s.ex)

/-- 41_move_arith.md R141. ADD answers the state in which b is written v and then EX is written e, where v + 65536 * e is the
exact unsigned sum. -/
def Obligations.AddGivesSumAndCarry : Prop :=
  ∀ (b : OperandB) (a : OperandA) (s : State), let r := resolveBoth b a s
    ∃ v e : Word, exec (.add b a) s = .next ((r.state.writeRef r.refB v).setEx e) ∧
      v.toNat + 65536 * e.toNat = r.vb.toNat + r.va.toNat

/-- 41_move_arith.md R142. SUB answers the state in which b is written b - a modulo 65,536 and then EX is written 0xFFFF when
b < a unsigned and 0 otherwise. -/
def Obligations.SubGivesDifferenceAndBorrow : Prop :=
  ∀ (b : OperandB) (a : OperandA) (s : State), let r := resolveBoth b a s
    ∃ v e : Word, exec (.sub b a) s = .next ((r.state.writeRef r.refB v).setEx e) ∧
      v = r.vb - r.va ∧ e = if r.vb.toNat < r.va.toNat then 0xFFFF#16 else 0#16

/-- 41_move_arith.md R143. MUL answers the state in which b is written v and then EX is written e, where v + 65536 * e is the
exact unsigned product. -/
def Obligations.MulGivesUnsignedProduct : Prop :=
  ∀ (b : OperandB) (a : OperandA) (s : State), let r := resolveBoth b a s
    ∃ v e : Word, exec (.mul b a) s = .next ((r.state.writeRef r.refB v).setEx e) ∧
      v.toNat + 65536 * e.toNat = r.vb.toNat * r.va.toNat

/-- 41_move_arith.md R144. MLI answers the state in which b is written v and then EX is written e, where the 32-bit word e:v,
read as two's complement, is the exact signed product. -/
def Obligations.MliGivesSignedProduct : Prop :=
  ∀ (b : OperandB) (a : OperandA) (s : State), let r := resolveBoth b a s
    ∃ v e : Word, exec (.mli b a) s = .next ((r.state.writeRef r.refB v).setEx e) ∧
      (e ++ v : BitVec 32).toInt = r.vb.toInt * r.va.toInt

/-- 41_move_arith.md R145. DIV answers the state in which b is written v and then EX is written e: both 0 for a zero divisor;
else v is the unsigned quotient and v:e the quotient in 16.16 fixed point (EX of a non-zero divisor: D11; log 13). -/
def Obligations.DivGivesQuotientAndFraction : Prop :=
  ∀ (b : OperandB) (a : OperandA) (s : State), let r := resolveBoth b a s
    ∃ v e : Word, exec (.div b a) s = .next ((r.state.writeRef r.refB v).setEx e) ∧
      (r.va = 0#16 → v = 0#16 ∧ e = 0#16) ∧
      (r.va ≠ 0#16 → v.toNat = r.vb.toNat / r.va.toNat ∧ 65536 * v.toNat + e.toNat = 65536 * r.vb.toNat / r.va.toNat)

/-- 41_move_arith.md R146. DVI answers the state in which b is written v and then EX is written e: both 0 for a zero divisor;
else v is the signed quotient truncated toward zero and wrapped, e the truncated quotient of 65536 * b by a modulo 65,536
(D11, D12; log 13). -/
def Obligations.DviGivesSignedQuotient : Prop :=
  ∀ (b : OperandB) (a : OperandA) (s : State), let r := resolveBoth b a s
    ∃ v e : Word, exec (.dvi b a) s = .next ((r.state.writeRef r.refB v).setEx e) ∧
      (r.va = 0#16 → v = 0#16 ∧ e = 0#16) ∧
      (r.va ≠ 0#16 → v = r.vb.sdiv r.va ∧ (e.toNat : Int) = (65536 * r.vb.toInt).tdiv r.va.toInt % 65536)

/-- 41_move_arith.md R147, 41_move_arith.md R148. MOD answers the state in which b is written the unsigned remainder, MDI the
remainder of the truncating signed division, each 0 for a zero divisor; nothing else is written (EX untouched: D11; sign: D12;
log 13). -/
def Obligations.ModMdiGiveRemainder : Prop :=
  ∀ (b : OperandB) (a : OperandA) (s : State), let r := resolveBoth b a s
    (∃ v : Word, exec (.mod b a) s = .next (r.state.writeRef r.refB v) ∧
      v.toNat = if r.va = 0#16 then 0 else r.vb.toNat % r.va.toNat) ∧
    (∃ v : Word, exec (.mdi b a) s = .next (r.state.writeRef r.refB v) ∧
      v = if r.va = 0#16 then 0#16 else r.vb.srem r.va)

/-- 41_move_arith.md R150, 41_move_arith.md R151. For a non-zero divisor other than the pair -32768, -1: b = a * q + r, |r| <
|a|, and r is 0 or has the sign of b; for -32768 by -1 the quotient is stored as 0x8000 and the remainder is 0 (D12; log 13).
-/
def Obligations.SignedDivisionLaw : Prop :=
  (∀ vb va : Word, va ≠ 0#16 → ¬ (vb = 0x8000#16 ∧ va = 0xFFFF#16) →
    va.toInt * (dviResult vb va).toInt + (mdiResult vb va).toInt = vb.toInt ∧
    (mdiResult vb va).toInt.natAbs < va.toInt.natAbs ∧
    ((mdiResult vb va).toInt = 0 ∨ ((mdiResult vb va).toInt < 0 ↔ vb.toInt < 0))) ∧
  dviResult 0x8000#16 0xFFFF#16 = 0x8000#16 ∧ mdiResult 0x8000#16 0xFFFF#16 = 0#16

/-- 42_bitwise_shift.md R160, 42_bitwise_shift.md R161, 42_bitwise_shift.md R162. AND, BOR and XOR answer the state in which b
is written the word whose bit i is the and, or, exclusive or of the bits i of b and a, and nothing else is written. -/
def Obligations.BitwiseResults : Prop :=
  ∀ (b : OperandB) (a : OperandA) (s : State), let r := resolveBoth b a s
    (∃ v : Word, exec (.and b a) s = .next (r.state.writeRef r.refB v) ∧
      ∀ k, v.getLsbD k = (r.vb.getLsbD k && r.va.getLsbD k)) ∧
    (∃ v : Word, exec (.bor b a) s = .next (r.state.writeRef r.refB v) ∧
      ∀ k, v.getLsbD k = (r.vb.getLsbD k || r.va.getLsbD k)) ∧
    (∃ v : Word, exec (.xor b a) s = .next (r.state.writeRef r.refB v) ∧
      ∀ k, v.getLsbD k = (r.vb.getLsbD k ^^ r.va.getLsbD k))

/-- 42_bitwise_shift.md R163, 42_bitwise_shift.md R166. SHR answers the state in which b is written v and then EX is written
e, where v:e is the 32-bit word b:0x0000 shifted right with zero fill by the whole value of a (D10; log 12). -/
def Obligations.ShrShiftsIntoEx : Prop :=
  ∀ (b : OperandB) (a : OperandA) (s : State), let r := resolveBoth b a s
    ∃ v e : Word, exec (.shr b a) s = .next ((r.state.writeRef r.refB v).setEx e) ∧
      (v ++ e : BitVec 32) = (r.vb ++ 0#16 : BitVec 32) >>> r.va.toNat

/-- 42_bitwise_shift.md R164, 42_bitwise_shift.md R166. ASR answers the state in which b is written b shifted right
arithmetically by the whole value of a and then EX is written the low half of b:0x0000 shifted right with zero fill (D10; log
12). -/
def Obligations.AsrKeepsTheSign : Prop :=
  ∀ (b : OperandB) (a : OperandA) (s : State), let r := resolveBoth b a s
    ∃ v e : Word, exec (.asr b a) s = .next ((r.state.writeRef r.refB v).setEx e) ∧
      v = r.vb.sshiftRight r.va.toNat ∧
      e = ((r.vb ++ 0#16 : BitVec 32) >>> r.va.toNat).setWidth 16

/-- 42_bitwise_shift.md R165, 42_bitwise_shift.md R166. SHL answers the state in which b is written v and then EX is written
e, where e:v is the 32-bit word 0x0000:b shifted left by the whole value of a (D10; log 12). -/
def Obligations.ShlShiftsIntoEx : Prop :=
  ∀ (b : OperandB) (a : OperandA) (s : State), let r := resolveBoth b a s
    ∃ v e : Word, exec (.shl b a) s = .next ((r.state.writeRef r.refB v).setEx e) ∧
      (e ++ v : BitVec 32) = (0#16 ++ r.vb : BitVec 32) <<< r.va.toNat

/-- 44_carry_index.md R190, 44_carry_index.md R191. ADX answers the state in which b is written v and then EX is written e,
where v + 65536 * e is the exact sum of b, a and the old EX (EX may become 2); SBX the same with e read as signed and b - a +
EX, so e is 0xFFFF, 0 or 1 (D13; log 14). -/
def Obligations.AdxSbxAddTheWholeEx : Prop :=
  ∀ (b : OperandB) (a : OperandA) (s : State), let r := resolveBoth b a s
    (∃ v e : Word, exec (.adx b a) s = .next ((r.state.writeRef r.refB v).setEx e) ∧
      v.toNat + 65536 * e.toNat = r.vb.toNat + r.va.toNat + s.ex.toNat) ∧
    (∃ v e : Word, exec (.sbx b a) s = .next ((r.state.writeRef r.refB v).setEx e) ∧
      (v.toNat : Int) + 65536 * e.toInt = (r.vb.toNat : Int) - r.va.toNat + s.ex.toNat)

/-- 44_carry_index.md R192, 44_carry_index.md R193. STI (STD) answers a next state that is the state after SET's write but for
I and J, which are one more (less), modulo 65,536, than after that write. -/
def Obligations.StiStdMoveThenStep : Prop :=
  ∀ (b : OperandB) (a : OperandA) (s : State), let r := resolveBoth b a s
    let u := r.state.writeRef r.refB (valueA a s)
    ∀ c ∈ [(Instr.sti b a, (1 : Int)), (Instr.std b a, -1)], ∃ t, exec c.1 s = .next t ∧
      t.reg .i = BitVec.ofInt 16 ((u.reg .i).toNat + c.2) ∧ t.reg .j = BitVec.ofInt 16 ((u.reg .j).toNat + c.2) ∧
      (∀ g, g ≠ .i → g ≠ .j → t.reg g = u.reg g) ∧
      t.sp = u.sp ∧ t.pc = u.pc ∧ t.ex = u.ex ∧ t.mem = u.mem ∧ SameControl s t

/-- 10_state.md R24, 40_step_and_operands.md R119, 40_step_and_operands.md R120. When SET, MOD, MDI, AND, BOR or XOR gives a
next state, every register, SP, PC, EX and memory word other than the computed referent of b is as before (SP but for the
operands' own change), and no control state changes; for ADD, SUB, MUL, MLI, DIV, DVI, SHR, ASR, SHL, ADX and SBX the same
with EX free (D9; log 11). -/
def Obligations.FrameOfNormalOperators : Prop :=
  ∀ (b : OperandB) (a : OperandA) (s t : State),
    (∀ i ∈ writesBOnly b a, exec i s = .next t → FrameB b a s t ∧ ((resolveBoth b a s).refB ≠ .ex → t.ex = s.ex)) ∧
    (∀ i ∈ writesEx b a, exec i s = .next t → FrameB b a s t)

/-- 43_conditional.md R178, 43_conditional.md R181. For each of the eight conditionals, when its test of the two values holds,
it answers the state after its operands are resolved: SP by the operands alone, everything else as before (predicates: D14;
log 15). -/
def Obligations.TrueConditionalFallsThrough : Prop :=
  ∀ (b : OperandB) (a : OperandA) (s : State), let r := resolveBoth b a s
    ∀ c ∈ conditionalTable b a, c.2 r.vb r.va →
      exec c.1 s = .next { s with sp := spAfterB b (spAfterA a s.sp) }

/-- 43_conditional.md R178, 43_conditional.md R180. For each of the eight conditionals, when its test fails and n conditionals
stand at PC followed by an unconditional instruction, it answers the state with PC after that instruction, n + 1 more cycles,
SP by the operands alone and everything else as before; there is no bound on n, so the fuel of the model always suffices (D14,
D17; logs 15, 17). The conditionals that a chain runs over are exactly those eight (R178). -/
def Obligations.FalseConditionalSkipsToTheFirstUnconditional : Prop :=
  (∀ i : Instr, i.isConditional = true ↔ ∃ b a, ∃ c ∈ conditionalTable b a, i = c.1) ∧
  ∀ (b : OperandB) (a : OperandA) (s : State) (n : Nat) (pc' : Word) (i : Instr), let r := resolveBoth b a s
    ∀ c ∈ conditionalTable b a, ¬ c.2 r.vb r.va → CondRun s.mem s.pc n pc' →
      decodeWord (s.mem.read pc') = .ok i → i.isConditional = false →
      exec c.1 s = .next { s with
        sp := spAfterB b (spAfterA a s.sp)
        pc := pc' + BitVec.ofNat 16 i.words
        cycles := s.cycles + (n + 1) }

/-- 43_conditional.md R179, 92_eei_decisions.md D14, 92_eei_decisions.md D18. For each of the eight conditionals, when its
test fails and n conditionals stand at PC followed by an illegal word, it answers the state with cpuState
ErrorIllegalInstruction, PC at the illegal word and the cycle count 0; SP by the operands alone and everything else as before
(the eight tests: D14, log 15; the chain in one step: D17, log 17; the freeze: D18, log 18). This is where the form freezes,
not where it completes. -/
def Obligations.FalseConditionalFreezesOnIllegalWord : Prop :=
  ∀ (b : OperandB) (a : OperandA) (s : State) (n : Nat) (pc' : Word) (e : Reject), let r := resolveBoth b a s
    ∀ c ∈ conditionalTable b a, ¬ c.2 r.vb r.va → CondRun s.mem s.pc n pc' →
      decodeWord (s.mem.read pc') = .error e →
      exec c.1 s = .next { s with
        sp := spAfterB b (spAfterA a s.sp)
        pc := pc'
        cycles := 0
        cpuState := .errorIllegalInstruction }

/-- 43_conditional.md R180, 93_implementation_defined.md U7, 92_eei_decisions.md D14. exec faults exactly when the instruction
is one of the eight conditionals, its test fails, and runs of conditionals of every length stand at PC; it never refuses an
instruction (the eight tests: D14, log 15; the chain in one step: D17, log 17; the fault: log 33). -/
def Obligations.EndlessChainIsTheOnlyFault : Prop :=
  ∀ (i : Instr) (s : State), (∀ x, exec i s ≠ .refused x) ∧
    ((∃ f, exec i s = .fault f) ↔
      ∃ b a, ∃ c ∈ conditionalTable b a, i = c.1 ∧ ¬ c.2 (resolveBoth b a s).vb (resolveBoth b a s).va ∧
        ∀ n, ∃ pc', CondRun s.mem s.pc n pc')

/-- 45_special_control.md R200, 40_step_and_operands.md R121. In a state whose memory is in canonical form, JSR answers a next
state with PC the value of a, SP one below the SP its operand left, the word there the PC of before (the address of the next
instruction, D6; log 8), and every other word, register and piece of control state as before. -/
def Obligations.JsrPushesReturnAddress : Prop :=
  ∀ (a : OperandA) (s : State), s.mem.wf = true → ∃ t, exec (.jsr a) s = .next t ∧ t.pc = valueA a s ∧
    t.sp = spAfterA a s.sp - 1#16 ∧ t.mem.read (spAfterA a s.sp - 1#16) = s.pc ∧
    (∀ x, x ≠ spAfterA a s.sp - 1#16 → t.mem.read x = s.mem.read x) ∧
    t.regs = s.regs ∧ t.ex = s.ex ∧ SameControl s t

/-- 45_special_control.md R201, 60_exceptions.md R241. In a running block whose queue is not full INT answers the state with
the value of a appended to IQ and SP changed by the operand alone; everything else is as before. -/
def Obligations.IntQueuesTheMessage : Prop :=
  ∀ (a : OperandA) (s : State), s.cpuState = .running → s.iq.length < 256 →
    exec (.int a) s = .next { s with sp := spAfterA a s.sp, iq := s.iq ++ [valueA a s] }

/-- 60_exceptions.md R232, 60_exceptions.md R240, 92_eei_decisions.md D24, 45_special_control.md R201, 70_reset_and_hazards.md
R291. In a running block with IE off and 256 or more messages queued, whose word at PC decodes to INT a, with no wake request
held: the step answers the state with cpuState ErrorInterruptQueueFilled, the queue as it was, PC past the instruction, T and
the count advanced by its cost. The capacity is D19 (log 19), the completion of the step D24 (log 23); the cost of 4 plus the
next word of a rests on the base cost table, general knowledge in the spec (R291; log 5). -/
def Obligations.IntOnFullQueueFreezes : Prop :=
  ∀ (a : OperandA) (s : State) (rest : List Word), s.cpuState = .running → s.ie = false → 256 ≤ s.iq.length →
    s.wq = [] → s.flushing = false → s.deferred = [] →
    decode [s.mem.read s.pc, s.mem.read (s.pc + 1#16), s.mem.read (s.pc + 2#16)] = .ok (.int a, rest) →
    step s = .next { s with
      pc := s.pc + BitVec.ofNat 16 (1 + a.extra)
      sp := spAfterA a s.sp
      t := s.t + (4 + a.extra)
      cycles := 4 + a.extra
      cpuState := .errorInterruptQueueFilled
      initPending := false
      calls := [] }

/-- 45_special_control.md R202. In a state whose memory is in canonical form, IAG answers a next state in which the referent
of a, unless a literal, reads IA; everything else is as before but for the SP change of the operand. -/
def Obligations.IagWritesIa : Prop :=
  ∀ (a : OperandA) (s : State), s.mem.wf = true → ∃ t, exec (.iag a) s = .next t ∧
    ((∀ w, (resolveA a s).1 ≠ .lit w) → t.readRef (resolveA a s).1 = s.ia) ∧ FrameA a s t

/-- 45_special_control.md R203, 45_special_control.md R205. IAS answers the state with IA the value of a, IAQ the state with
IE true exactly when the value of a is 0; SP by the operand alone and nothing else changes (IAQ: D21; log 21). -/
def Obligations.IasAndIaqWriteControl : Prop :=
  ∀ (a : OperandA) (s : State),
    exec (.ias a) s = .next { s with sp := spAfterA a s.sp, ia := valueA a s } ∧
    (valueA a s = 0#16 → exec (.iaq a) s = .next { s with sp := spAfterA a s.sp, ie := true }) ∧
    (valueA a s ≠ 0#16 → exec (.iaq a) s = .next { s with sp := spAfterA a s.sp, ie := false })

/-- 45_special_control.md R204, 40_step_and_operands.md R122. RFI answers a next state with A the word at the SP its operand
left, PC the word after it, SP two more, IE true; every other register, EX, memory and the other control state are as before,
whatever IE was. -/
def Obligations.RfiPopsAThenPc : Prop :=
  ∀ (a : OperandA) (s : State), ∃ t, exec (.rfi a) s = .next t ∧
    t.reg .a = s.mem.read (spAfterA a s.sp) ∧ t.pc = s.mem.read (spAfterA a s.sp + 1#16) ∧
    t.sp = spAfterA a s.sp + 2#16 ∧ t.ie = true ∧ (∀ g, g ≠ .a → t.reg g = s.reg g) ∧
    t.ex = s.ex ∧ t.mem = s.mem ∧ SameControl { s with ie := true } t

/-- 46_hardware.md R220. In a state whose memory is in canonical form, HWN answers a next state in which the referent of a,
unless a literal, reads the number of attached devices modulo 65,536; everything else is as before but for the SP change of
the operand. For every device list (log 31). -/
def Obligations.HwnWritesDeviceCount : Prop :=
  ∀ (a : OperandA) (s : State), s.mem.wf = true → ∃ t, exec (.hwn a) s = .next t ∧
    ((∀ w, (resolveA a s).1 ≠ .lit w) → (t.readRef (resolveA a s).1).toNat = Config.devices.length % 65536) ∧
    FrameA a s t

/-- 46_hardware.md R221, 46_hardware.md R224. HWQ answers the state hwqWith gives for the attached devices and the value of a,
from the state after its operand. For every device list: for an index of the list B:A is the id, C the version, Y:X the
manufacturer, and everything else is as before; for an index out of range nothing changes (register mapping: D15; log 16). -/
def Obligations.HwqReadsTheIdentity : Prop :=
  ∀ (a : OperandA) (s : State), let u : State := { s with sp := spAfterA a s.sp }
    exec (.hwq a) s = .next (hwqWith Config.devices (valueA a s) u) ∧
    ∀ (devices : List DeviceIdentity) (va : Word), let t := hwqWith devices va u
      (∀ d, devices[va.toNat]? = some d →
        (t.reg .b ++ t.reg .a : BitVec 32) = d.id ∧ t.reg .c = d.version ∧
        (t.reg .y ++ t.reg .x : BitVec 32) = d.manufacturer ∧
        t.reg .z = s.reg .z ∧ t.reg .i = s.reg .i ∧ t.reg .j = s.reg .j ∧
        t.pc = s.pc ∧ t.sp = spAfterA a s.sp ∧ t.ex = s.ex ∧ t.mem = s.mem ∧ SameControl s t) ∧
      (devices.length ≤ va.toNat → t = u)

/-- 46_hardware.md R222, 46_hardware.md R224, 46_hardware.md R225, 60_exceptions.md R256, 60_exceptions.md R258. HWI answers
the state hwiWith gives for the attached devices and the value of a, from the state after its operand. For every number of
devices and every reaction: for an attached device the call is recorded, the device's operations are applied in order, the
extra cycles are added, and IE, T and the other fields no device reaches are as before; for an index out of range nothing
changes (logs 30, 31). What a called device is shown of a state is its twelve registers by name, its memory by address and its
cpuState (R225, R258; D29, log 28). -/
def Obligations.HwiCallsTheDevice : Prop :=
  (∀ u : State, u.view.register = u.getNamed ∧ u.view.memory = u.mem.read ∧ u.view.cpuState = u.cpuState) ∧
  ∀ (a : OperandA) (s : State), let u : State := { s with sp := spAfterA a s.sp }
    exec (.hwi a) s = .next (hwiWith Config.devices.length Config.deviceReaction (valueA a s) u) ∧
    ∀ (ndev : Nat) (react : Nat → DeviceCall → View → Reaction) (va : Word), let t := hwiWith ndev react va u
      let call := DeviceCall.interrupt va.toNat
      let x := react s.devState call u.view
      (va.toNat < ndev →
        t.calls = s.calls ++ [call] ∧ t.devState = x.devState ∧ t.cycles = s.cycles + x.extra ∧
        t.ie = s.ie ∧ t.t = s.t ∧ t.initPending = s.initPending ∧ t.flushing = s.flushing ∧
        t = { hostActions x.actions { u with calls := s.calls ++ [call], devState := x.devState } with
          cycles := s.cycles + x.extra }) ∧
      (ndev ≤ va.toNat → t = u)

/-- R246. With IE on, IA not 0 and a message at the head of IQ, DeliverInterrupts gives SP two lower, the old PC at SP + 1,
the old A at SP, PC = IA, A = the message, IE off, the message gone; nothing else changes (memory in canonical form). -/
def Obligations.DeliveryEntersTheHandler : Prop :=
  ∀ (s : State) (m : Word) (rest : List Word), s.mem.wf = true → s.ie = true → s.ia ≠ 0#16 → s.iq = m :: rest →
    let t := deliverInterrupts s
    t.sp = s.sp - 2#16 ∧ t.mem.read (s.sp - 1#16) = s.pc ∧ t.mem.read (s.sp - 2#16) = s.reg .a ∧
    (∀ x, x ≠ s.sp - 1#16 → x ≠ s.sp - 2#16 → t.mem.read x = s.mem.read x) ∧
    t.pc = s.ia ∧ t.reg .a = m ∧ (∀ g, g ≠ .a → t.reg g = s.reg g) ∧ t.ex = s.ex ∧
    t.ie = false ∧ t.iq = rest ∧ SameControl { s with ie := false, iq := rest } t

/-- 60_exceptions.md R243, 60_exceptions.md R244, 60_exceptions.md R247. With IE on and IA = 0 DeliverInterrupts empties IQ
and changes nothing else; with IE off, or nothing queued, it changes nothing. -/
def Obligations.DeliveryWithoutHandlerEmptiesTheQueue : Prop :=
  ∀ s : State, (s.ie = true → s.ia = 0#16 → deliverInterrupts s = { s with iq := [] }) ∧
    (s.ie = false → deliverInterrupts s = s) ∧ (s.iq = [] → deliverInterrupts s = s)

/-- 45_special_control.md R204, 60_exceptions.md R246, 60_exceptions.md R248. From a state with IE on, a handler and a
message, delivery followed by RFI with a literal or register operand gives back every register, PC, SP and EX, IE on, and the
queue without the message (memory in canonical form). -/
def Obligations.RfiUndoesDelivery : Prop :=
  ∀ (s : State) (m : Word) (rest : List Word) (a : OperandA), s.mem.wf = true → s.ie = true → s.ia ≠ 0#16 →
    s.iq = m :: rest → a ≠ .pop →
    ∃ t, exec (.rfi a) (deliverInterrupts s) = .next t ∧ t.regs = s.regs ∧ t.pc = s.pc ∧ t.sp = s.sp ∧ t.ex = s.ex ∧
      t.ie = true ∧ t.iq = rest ∧ t.ia = s.ia

/-- R121, R122. After Push(v), SP is one lower, the word there is v, every other word, register and piece of control state is
as before; Pop gives the word at SP and the state with SP one higher and nothing else changed; a Pop after a Push(v) gives v
and the SP of before (memory in canonical form). -/
def Obligations.PushAndPop : Prop :=
  ∀ (s : State) (v : Word), s.mem.wf = true → (s.push v).sp = s.sp - 1#16 ∧ (s.push v).mem.read (s.sp - 1#16) = v ∧
    (∀ x, x ≠ s.sp - 1#16 → (s.push v).mem.read x = s.mem.read x) ∧
    (s.push v).regs = s.regs ∧ (s.push v).pc = s.pc ∧ (s.push v).ex = s.ex ∧ SameControl s (s.push v) ∧
    s.pop = (s.mem.read s.sp, { s with sp := s.sp + 1#16 }) ∧
    (s.push v).pop.1 = v ∧ (s.push v).pop.2.sp = s.sp

/-- 10_state.md R25, 10_state.md R29, 10_state.md R38. When an instruction other than IAS and HWI gives a next state, IA is as
before; when one other than RFI and IAQ does, IE is as before, a device callback of HWI included (D29; log 28). -/
def Obligations.OnlyNamedInstructionsWriteIaAndIe : Prop :=
  ∀ (i : Instr) (s t : State), exec i s = .next t →
    ((∀ a, i ≠ .ias a) → (∀ a, i ≠ .hwi a) → t.ia = s.ia) ∧
    ((∀ a, i ≠ .rfi a) → (∀ a, i ≠ .iaq a) → t.ie = s.ie)

/-- 60_exceptions.md R251, 60_exceptions.md R252. Outside a flush, on a sorted WQ, ScheduleWake puts the request, stamped with
T and T + cycles, after all requests whose end is not greater and before the rest, and WQ stays sorted; nothing else changes
(ties: D26, log 25; reference time: D28, log 27). Insertion of any request into any sorted list, as at the end of a flush,
puts it in the same place. -/
def Obligations.ScheduledWakeEntersInOrder : Prop :=
  (∀ (q : WakeRequest) (wq : List WakeRequest), wq.Pairwise (fun p q => p.endT ≤ q.endT) → insertWake q wq =
    wq.filter (fun p => decide (p.endT ≤ q.endT)) ++ q :: wq.filter (fun p => decide (q.endT < p.endT))) ∧
  ∀ (dev cycles : Nat) (ctx : Int) (s : State), s.flushing = false → s.wq.Pairwise (fun p q => p.endT ≤ q.endT) →
    scheduleWake dev cycles ctx s =
      { s with wq := s.wq.filter (fun p => decide (p.endT ≤ s.t + cycles)) ++
        ({ dev := dev, ctx := ctx, start := s.t, endT := s.t + cycles } : WakeRequest) ::
        s.wq.filter (fun p => decide (s.t + cycles < p.endT)) } ∧
    (scheduleWake dev cycles ctx s).wq.Pairwise (fun p q => p.endT ≤ q.endT)

/-- 60_exceptions.md R252, 60_exceptions.md R253, 60_exceptions.md R254, 60_exceptions.md R257, 60_exceptions.md R258. On a
sorted WQ and for every device behaviour, a flush makes one wake callback for each request that was in WQ with end at most T,
in WQ order, with T - start as the elapsed cycles, and no other: requests made during the flush are not fired in it. T, IE and
the cycle count are as before, and flushing is off and nothing deferred after it (elapsed: D27; log 26). The state after the
loop is the fold over the due requests, taken off WQ, of the operations the called device answers with, each call recorded and
shown the state it finds (logs 28, 30, 34); the whole flush then turns flushing off and inserts the deferred requests into WQ
in the order requested (ties: D26, log 25). -/
def Obligations.FlushFiresTheDueRequestsInOrder : Prop :=
  ∀ (react : Nat → DeviceCall → View → Reaction) (s : State), s.wq.Pairwise (fun p q => p.endT ≤ q.endT) →
    let f := (s.wq.filter (fun q => decide (q.endT ≤ s.t))).foldl
      (fun u q =>
        let call := DeviceCall.wake q.dev (s.t - q.start) q.ctx
        let x := react u.devState call u.view
        hostActions x.actions { u with calls := u.calls ++ [call], devState := x.devState })
      { s with flushing := true, wq := s.wq.filter (fun q => decide (s.t < q.endT)) }
    (flushWith react s).calls = s.calls ++ (s.wq.filter (fun q => decide (q.endT ≤ s.t))).map
      (fun q => DeviceCall.wake q.dev (s.t - q.start) q.ctx) ∧
    (flushWith react s).t = s.t ∧ (flushWith react s).ie = s.ie ∧ (flushWith react s).cycles = s.cycles ∧
    (flushWith react s).flushing = false ∧ (flushWith react s).deferred = [] ∧
    flushLoop react s.wq.length { s with flushing := true } = f ∧
    flushWith react s = { f with
      flushing := false
      wq := f.deferred.foldl (fun wq q => insertWake q wq) f.wq
      deferred := [] }

/-- 60_exceptions.md R251, 60_exceptions.md R252, 60_exceptions.md R254. On a sorted WQ with nothing deferred, for every
device behaviour: WQ after the flush is the requests not due with each request deferred in its loop inserted, in the order
requested; every request not due is in it; when no device reacts nothing else changes but the calls made and what devices
remember; when what a device does depends on the call alone, the requests inserted are exactly those the due callbacks make,
in order. While a flush runs, ScheduleWake appends to deferred and changes nothing else, and a callback appends its requests
and leaves WQ (ties: D26, log 25; reference time: D28, log 27). -/
def Obligations.FlushKeepsTheRequestsNotDue : Prop :=
  (∀ s : State, s.wq.Pairwise (fun p q => p.endT ≤ q.endT) → s.flushing = false → s.deferred = [] →
    (∀ (react : Nat → DeviceCall → View → Reaction), ∀ q ∈ s.wq, s.t < q.endT → q ∈ (flushWith react s).wq) ∧
    (∀ (react : Nat → DeviceCall → View → Reaction), (∀ d c v, (react d c v).actions = []) →
      ∃ d, flushWith react s = { s with
        wq := s.wq.filter (fun q => decide (s.t < q.endT))
        calls := s.calls ++ (s.wq.filter (fun q => decide (q.endT ≤ s.t))).map
          (fun q => DeviceCall.wake q.dev (s.t - q.start) q.ctx)
        devState := d }) ∧
    (∀ (react : Nat → DeviceCall → View → Reaction), (flushWith react s).wq =
      (flushLoop react s.wq.length { s with flushing := true }).deferred.foldl (fun wq q => insertWake q wq)
        (s.wq.filter (fun q => decide (s.t < q.endT)))) ∧
    (∀ (react : Nat → DeviceCall → View → Reaction) (f : DeviceCall → List Action),
      (∀ d c v, (react d c v).actions = f c) → (flushWith react s).wq =
      ((s.wq.filter (fun q => decide (q.endT ≤ s.t))).flatMap
        (fun q => requestsOf s.t (f (.wake q.dev (s.t - q.start) q.ctx)))).foldl (fun wq q => insertWake q wq)
        (s.wq.filter (fun q => decide (s.t < q.endT))))) ∧
  (∀ (react : Nat → DeviceCall → View → Reaction) (call : DeviceCall) (u : State), u.flushing = true →
    (callDevice react call u).2.deferred = u.deferred ++ requestsOf u.t (react u.devState call u.view).actions ∧
    (callDevice react call u).2.wq = u.wq) ∧
  (∀ (dev cycles : Nat) (ctx : Int) (u : State), u.flushing = true → scheduleWake dev cycles ctx u =
    { u with deferred := u.deferred ++
      [({ dev := dev, ctx := ctx, start := u.t, endT := u.t + cycles } : WakeRequest)] })

/-- 40_step_and_operands.md R100, 40_step_and_operands.md R104, 40_step_and_operands.md R106, 40_step_and_operands.md R107,
60_exceptions.md R254, 70_reset_and_hazards.md R291, 93_implementation_defined.md G3. In a running block with nothing to
deliver, when the words at PC decode to i, the step is exec of i on the state with PC past the instruction and the count at
its base cost plus next words; a next state then gets T advanced and the wake list flushed with the reactions of the attached
devices (R100 line 13, R254; log 30), also in a step that froze on a full queue (R107, D24; log 23), and not in one that froze
on an illegal word (R107, D18; log 18). PC past the instruction: D6, log 8; the base costs: general knowledge G3 of the spec,
log 5. -/
def Obligations.StepRunsTheDecodedInstruction : Prop :=
  ∀ (s : State) (i : Instr) (rest : List Word), s.cpuState = .running → (s.iq = [] ∨ s.ie = false) →
    decode [s.mem.read s.pc, s.mem.read (s.pc + 1#16), s.mem.read (s.pc + 2#16)] = .ok (i, rest) →
    let u : State := { s with
      pc := s.pc + BitVec.ofNat 16 i.words
      cycles := baseCycles i + (i.words - 1)
      initPending := false
      calls := [] }
    (∀ f, exec i u = .fault f → step s = .fault f) ∧
    (∀ t, exec i u = .next t →
      (t.cpuState = .errorIllegalInstruction → step s = .next t) ∧
      (t.cpuState ≠ .errorIllegalInstruction → step s = .next (flushWith Config.deviceReaction { t with t := t.t + t.cycles })))

/-- 60_exceptions.md R244, 40_step_and_operands.md R103. In a running block the step is the step, from the state after
DeliverInterrupts, of a block with nothing to deliver: the handler's first instruction runs in the same step and delivery
costs no cycle (D20; log 20). -/
def Obligations.StepAfterDeliveryRunsTheHandler : Prop :=
  ∀ s : State, s.cpuState = .running →
    ((deliverInterrupts s).iq = [] ∨ (deliverInterrupts s).ie = false) ∧ step s = step (deliverInterrupts s)

/-- 60_exceptions.md R231, 92_eei_decisions.md D18. In a running block with nothing to deliver whose word at PC is illegal,
the step answers the state with cpuState ErrorIllegalInstruction and the count 0; PC, T, the wake list and everything else are
as before (D18; log 18). -/
def Obligations.StepOnIllegalWordFreezes : Prop :=
  ∀ (s : State) (e : Reject), s.cpuState = .running → (s.iq = [] ∨ s.ie = false) →
    decodeWord (s.mem.read s.pc) = .error e →
    step s = .next { s with cpuState := .errorIllegalInstruction, cycles := 0, calls := [], initPending := false }

/-- R101. When cpuState is not Running the step answers the same state, with the returned count 0 and no callback made (the
two outputs are the model's fields, log 34). -/
def Obligations.FrozenStepChangesNothing : Prop :=
  ∀ s : State, s.cpuState ≠ .running → step s = .next { s with cycles := 0, calls := [] }

/-- 60_exceptions.md R234, 40_step_and_operands.md R101, 60_exceptions.md R241, 10_state.md R39, 60_exceptions.md R263,
92_eei_decisions.md D23. From a frozen state, any number of rounds, each a list of host or device actions and then a step,
ends in a next state with the same cpuState; every step is the no-op of R101, with the returned count 0 and no callback made
(the two outputs are the model's fields, log 34; the frozen step is a next state, log 32); a further interrupt request changes
nothing (D23, log 22); the host still writes (and reads back) registers and memory (R39, D29, log 28; host actions between
steps: log 35; canonical memory: logs 1 and 2); no successful run ends there (SafeFor, what a successful run is, is the
model's choice, log 32). -/
def Obligations.FrozenForGood : Prop :=
  ∀ (rounds : List (List Action)) (s : State), s.cpuState ≠ .running →
    (∃ t, rounds.foldl (fun o acts => match o with
      | .next u => step (hostActions acts u)
      | .fault f => .fault f
      | .refused x => .refused x) (.next s) = (.next t : Host.Outcome State Fault Refusal) ∧ t.cpuState = s.cpuState) ∧
    step s = .next { s with cycles := 0, calls := [] } ∧
    (∀ m, hostActions [.interrupt m] s = s) ∧
    (∀ r v, (hostActions [.setRegister r v] s).getNamed r = v) ∧
    (s.mem.wf = true → ∀ x v, (hostActions [.writeMemory x v] s).mem.read x = v) ∧
    (∀ n, ¬ SafeFor n s)

/-- 60_exceptions.md R250. When a step answers a next state, T there is T before plus the returned count; executing an
instruction by itself, a device callback included, leaves T. -/
def Obligations.StepAdvancesTimeByItsCount : Prop :=
  (∀ s t : State, step s = .next t → t.t = s.t + t.cycles) ∧
  (∀ (i : Instr) (s t : State), exec i s = .next t → t.t = s.t) ∧
  (∀ s t : State, step s = .next t → (s.cpuState ≠ .running ∨ t.cpuState = .errorIllegalInstruction) → t.t = s.t)

/-- 70_reset_and_hazards.md R291, 70_reset_and_hazards.md R292, 93_implementation_defined.md G3. The base cost of each of the
36 operators, whatever its operands, is the entry of the table BASE_CYCLES: 1, 2, 3 or 4; base plus next words is at least 1
and at most 5; for the conditionals the base is 2 and for HWI it is 4 (the 4 of HWI is the source's; every other entry is
general knowledge G3; log 5). -/
def Obligations.InstructionCostBounds : Prop :=
  (∀ (b : OperandB) (a : OperandA),
    (∀ i ∈ [Instr.set b a, .and b a, .bor b a, .xor b a, .shr b a, .asr b a, .shl b a, .iag a, .ias a], baseCycles i = 1) ∧
    (∀ i ∈ [Instr.add b a, .sub b a, .mul b a, .mli b a, .ifb b a, .ifc b a, .ife b a, .ifn b a, .ifg b a, .ifa b a,
      .ifl b a, .ifu b a, .sti b a, .std b a, .iaq a, .hwn a], baseCycles i = 2) ∧
    (∀ i ∈ [Instr.div b a, .dvi b a, .mod b a, .mdi b a, .adx b a, .sbx b a, .jsr a, .rfi a], baseCycles i = 3) ∧
    (∀ i ∈ [Instr.int a, .hwq a, .hwi a], baseCycles i = 4)) ∧
  (∀ i : Instr, 1 ≤ baseCycles i ∧ baseCycles i ≤ 4 ∧ baseCycles i + (i.words - 1) ≤ 5 ∧
    (i.isConditional = true → baseCycles i = 2) ∧ (∀ a, i = .hwi a → baseCycles i = 4))

/-- 10_state.md R36, 10_state.md R37. At reset the twelve registers are 0, IE is true, the queues are empty, T is 0, the block
runs and the step-boundary invariant holds (values: the spec's decision D22, log 3; the image: log 2). -/
def Obligations.ResetMeetsTheInvariant : Prop :=
  State.reset.Inv ∧ (∀ r, State.reset.getNamed r = 0#16) ∧ State.reset.ie = true ∧ State.reset.iq = [] ∧
    State.reset.wq = [] ∧ State.reset.t = 0 ∧ State.reset.cpuState = .running ∧ State.reset.initPending = true ∧
    (∀ a, State.reset.mem.read a = 0#16)

/-- 10_state.md R37. From every state with memory in canonical form, at most 256 messages, WQ sorted, no flush running and
nothing deferred, a step that answers a next state gives such a state, and cpuState stays once it is not Running. For every
device list and every device behaviour. The canonical form of memory is the model's own clause, beside those of R37 (logs 1
and 2). -/
def Obligations.EveryStepKeepsTheInvariant : Prop :=
  ∀ s t : State, s.Inv → step s = .next t → t.Inv ∧ (s.cpuState ≠ .running → t.cpuState = s.cpuState)

/-- 60_exceptions.md R241, 60_exceptions.md R242, 60_exceptions.md R251, 60_exceptions.md R258, 60_exceptions.md R263,
10_state.md R39, 70_reset_and_hazards.md R283. Any sequence of the operations of R258 keeps the invariant at a step boundary,
and in every state leaves IE, T, initPending, the flush mark and the model's own fields cycles, calls and devState (logs 30,
34). In every state, running or frozen: a register written by name reads back and nothing else changes; a word written by
address reads back and nothing else changes (canonical memory: logs 1 and 2); Interrupt(m) is queued, is fatal on a full
queue, or does nothing on a frozen block; a wake request is ScheduleWake, in a flush and outside one; operations take effect
in order, and none is no change (D19, D23, D28, D29; logs 19, 22, 27, 28). The names read the twelve registers; state(),
attachedDeviceCount() and attachedDevice(i) read cpuState and the device list (log 31); loading an image of at most 65,536
words puts its words at the addresses from 0 on and changes nothing else (R283; log 2). -/
def Obligations.SurroundingsKeepTheInvariant : Prop :=
  (∀ (acts : List Action) (s : State), s.Inv → (hostActions acts s).Inv) ∧
  (∀ (acts : List Action) (s : State), (hostActions acts s).ie = s.ie ∧ (hostActions acts s).t = s.t ∧
    (hostActions acts s).initPending = s.initPending ∧ (hostActions acts s).flushing = s.flushing ∧
    (hostActions acts s).cycles = s.cycles ∧ (hostActions acts s).calls = s.calls ∧
    (hostActions acts s).devState = s.devState) ∧
  (∀ (s : State) (r : RegName) (v : Word), let t := hostActions [.setRegister r v] s
    t.getNamed r = v ∧ (∀ q, q ≠ r → t.getNamed q = s.getNamed q) ∧ t.mem = s.mem ∧ SameControl { s with ia := t.ia } t) ∧
  (∀ (s : State) (x v : Word), s.mem.wf = true → let t := hostActions [.writeMemory x v] s
    t.mem.read x = v ∧ (∀ y, y ≠ x → t.mem.read y = s.mem.read y) ∧ t = { s with mem := t.mem }) ∧
  (∀ (s : State) (m : Word), let t := hostActions [.interrupt m] s
    (s.cpuState = .running → s.iq.length < 256 → t = { s with iq := s.iq ++ [m] }) ∧
    (s.cpuState = .running → 256 ≤ s.iq.length → t = { s with cpuState := .errorInterruptQueueFilled }) ∧
    (s.cpuState ≠ .running → t = s)) ∧
  (∀ (dev cycles : Nat) (ctx : Int) (s : State),
    hostActions [.scheduleWake dev cycles ctx] s = scheduleWake dev cycles ctx s) ∧
  (∀ s : State, hostActions [] s = s) ∧
  (∀ (act : Action) (acts : List Action) (s : State),
    hostActions (act :: acts) s = hostActions acts (hostActions [act] s)) ∧
  (∀ s : State, (∀ g, s.getNamed (.general g) = s.reg g) ∧ s.getNamed .pc = s.pc ∧ s.getNamed .sp = s.sp ∧
    s.getNamed .ex = s.ex ∧ s.getNamed .ia = s.ia ∧ readCpuState s = s.cpuState) ∧
  attachedDeviceCount = Config.devices.length ∧ (∀ k, attachedDevice k = Config.devices[k]?) ∧
  (∀ (img : List Word) (s : State), s.mem.wf = true → img.length ≤ 65536 → let t := loadImage img s
    (∀ k w, img[k]? = some w → t.mem.read (BitVec.ofNat 16 k) = w) ∧
    (∀ x : Word, img.length ≤ x.toNat → t.mem.read x = s.mem.read x) ∧
    t.mem.wf = true ∧ t = { s with mem := t.mem })

/-- 42_bitwise_shift.md R160, 42_bitwise_shift.md R161, 42_bitwise_shift.md R162. In a state whose memory is in canonical form
(logs 1 and 2), AND, BOR and XOR each answer a next state in which the referent of b, unless a literal, reads the bitwise and,
or, exclusive or of the values of b and a; everything else, EX too, is as before but for the SP changes of the operands. -/
def Obligations.BitwiseOperatorsWriteTheDestination : Prop :=
  ∀ (b : OperandB) (a : OperandA) (s : State), s.mem.wf = true → let r := resolveBoth b a s
    ∀ c ∈ [(Instr.and b a, r.vb &&& r.va), (Instr.bor b a, r.vb ||| r.va), (Instr.xor b a, r.vb ^^^ r.va)],
      ∃ t, exec c.1 s = .next t ∧ ((∀ w, r.refB ≠ .lit w) → t.readRef r.refB = c.2) ∧
        FrameB b a s t ∧ (r.refB ≠ .ex → t.ex = s.ex)
end

