-- ==== Sys2Proof/Laws/Decode.lean ====
section
/-! SUPPORT. The laws of the fields and of the opcode maps. -/

namespace Sys2Proof.Machine

theorem fieldO_toNat (w : Word) : (fieldO w).toNat = w.toNat % 32 := by
  simp [fieldO, BitVec.extractLsb'_toNat]

theorem fieldB_toNat (w : Word) : (fieldB w).toNat = w.toNat / 32 % 32 := by
  simp [fieldB, BitVec.extractLsb'_toNat, Nat.shiftRight_eq_div_pow]

theorem fieldA_toNat (w : Word) : (fieldA w).toNat = w.toNat / 1024 := by
  have := w.isLt
  simp [fieldA, BitVec.extractLsb'_toNat, Nat.shiftRight_eq_div_pow]
  omega

/-- R71, R72: a word as the number its three fields make. -/
theorem fields_toNat (x : BitVec 6) (y z : BitVec 5) :
    (x ++ y ++ z : BitVec 16).toNat = x.toNat * 1024 + y.toNat * 32 + z.toNat := by
  have hy := y.isLt
  have hz := z.isLt
  have : (x ++ y ++ z : BitVec (6 + 5 + 5)).toNat = x.toNat * 1024 + y.toNat * 32 + z.toNat := by
    simp only [BitVec.toNat_append]
    rw [← Nat.shiftLeft_add_eq_or_of_lt hz, ← Nat.shiftLeft_add_eq_or_of_lt hy, Nat.shiftLeft_eq, Nat.shiftLeft_eq]
    omega
  exact this

/-- R71, R72: a word is its three fields. -/
theorem fields_append (w : Word) : (fieldA w ++ fieldB w ++ fieldO w : BitVec 16) = w := by
  apply BitVec.eq_of_toNat_eq
  rw [fields_toNat, fieldA_toNat, fieldB_toNat, fieldO_toNat]
  omega

/-- R76: what the normal opcode map gives builds an instruction of the operands, whose kind and base cost are the operator's
alone. -/
theorem opcNormal_shape {o : BitVec 5} {mk : OperandB → OperandA → Instr} (h : opcNormal o = some mk) :
    ∃ cond cost, ∀ b a, (mk b a).operandA = a ∧ (mk b a).operandB = some b ∧ (mk b a).isConditional = cond ∧
      baseCycles (mk b a) = cost := by
  unfold opcNormal at h
  split at h <;> first | (cases h; exact ⟨_, _, fun b a => ⟨rfl, rfl, rfl, rfl⟩⟩) | cases h

/-- R77: what the special opcode map gives builds an instruction of the operand. -/
theorem opcSpecial_shape {so : BitVec 5} {mk : OperandA → Instr} (h : opcSpecial so = some mk) :
    ∃ cond cost, ∀ a, (mk a).operandA = a ∧ (mk a).operandB = none ∧ (mk a).isConditional = cond ∧
      baseCycles (mk a) = cost := by
  unfold opcSpecial at h
  split at h <;> first | (cases h; exact ⟨_, _, fun a => ⟨rfl, rfl, rfl, rfl⟩⟩) | cases h

theorem reg_ofNumber_number (r : Reg) : Reg.ofNumber r.number = r := by
  cases r <;> rfl

theorem reg_number_ofNumber (n : BitVec 3) : (Reg.ofNumber n).number = n := by
  revert n; decide

end Sys2Proof.Machine
end

