-- ==== Sys2Proof/Laws/Flags.lean ====
section
/-! SUPPORT. The laws of the integer conversions of `Machine/Flags.lean`. -/

namespace Sys2Proof.Machine

/-- R8: `u16` is the residue modulo 65,536. -/
theorem u16_toNat (n : Int) : ((u16 n).toNat : Int) = n % 65536 := by
  simp only [u16, BitVec.toNat_ofInt]; omega

/-- R9: `hi16` is the next 16 bits, the floor of a negative number included. -/
theorem hi16_toNat (n : Int) : ((hi16 n).toNat : Int) = n / 65536 % 65536 := by
  simp only [hi16, BitVec.toNat_ofInt]; omega

/-- R8: the range of a signed word. -/
theorem s16_range (v : Word) : -32768 ≤ s16 v ∧ s16 v ≤ 32767 := by
  have := v.isLt
  simp only [s16, BitVec.toInt_eq_toNat_cond]
  split <;> omega

/-- Two words side by side as one number. -/
theorem append_toNat (e v : Word) : (e ++ v : BitVec 32).toNat = e.toNat * 65536 + v.toNat := by
  have : (e ++ v : BitVec (16 + 16)).toNat = e.toNat * 65536 + v.toNat := by
    rw [BitVec.toNat_append, ← Nat.shiftLeft_add_eq_or_of_lt v.isLt, Nat.shiftLeft_eq]
  exact this

end Sys2Proof.Machine
end

