-- ==== Sys2Proof/Laws/Memory.lean ====
section
/-! SUPPORT. The laws of memory: reading after writing, and the canonical form. -/

namespace Sys2Proof.Machine

theorem cellAt_consCell_same (k : Nat) (v : Byte) (rest : List Host.Cell) (h : ∀ p ∈ rest, k < p.1) :
    cellAt (consCell k v rest) k = v := by
  have absent : ∀ l : List Host.Cell, (∀ p ∈ l, k < p.1) → cellAt l k = Memory.unlisted := by
    intro l hl
    induction l with
    | nil => rfl
    | cons p l ih =>
      have hp : p.1 ≠ k := by have := hl p (by simp); omega
      simp only [cellAt, hp, if_false]
      exact ih fun q hq => hl q (by simp [hq])
  unfold consCell
  split
  · next hv => rw [absent rest h, hv]
  · simp [cellAt]

theorem cellAt_consCell_other {k j : Nat} (hkj : j ≠ k) (v : Byte) (rest : List Host.Cell) :
    cellAt (consCell k v rest) j = cellAt rest j := by
  unfold consCell
  split
  · rfl
  · have : k ≠ j := fun h => hkj h.symm
    simp [cellAt, this]

/-- The order half of the canonical form. -/
abbrev Rising (l : List Host.Cell) : Prop := l.Pairwise fun p q => p.1 < q.1

theorem mem_putCell {k : Nat} {v : Byte} {l : List Host.Cell} {p : Host.Cell} (h : p ∈ putCell k v l) :
    p ∈ l ∨ (p = (k, v) ∧ v ≠ Memory.unlisted) := by
  have cons : ∀ rest : List Host.Cell, p ∈ consCell k v rest → p ∈ rest ∨ (p = (k, v) ∧ v ≠ Memory.unlisted) := by
    intro rest hp
    unfold consCell at hp
    split at hp
    · exact .inl hp
    · next hv =>
      rcases List.mem_cons.1 hp with h | h
      · exact .inr ⟨h, hv⟩
      · exact .inl h
  induction l with
  | nil => exact cons [] h
  | cons q l ih =>
    unfold putCell at h
    split at h
    · exact cons _ h
    · split at h
      · rcases cons _ h with h | h
        · exact .inl (by simp [h])
        · exact .inr h
      · rcases List.mem_cons.1 h with h | h
        · exact .inl (by simp [h])
        · rcases ih h with h | h
          · exact .inl (by simp [h])
          · exact .inr h

theorem consCell_rising {k : Nat} {v : Byte} {rest : List Host.Cell} (hr : Rising rest) (hk : ∀ p ∈ rest, k < p.1) :
    Rising (consCell k v rest) := by
  unfold consCell
  split
  · exact hr
  · exact List.pairwise_cons.2 ⟨hk, hr⟩

theorem putCell_rising {k : Nat} {v : Byte} {l : List Host.Cell} (hl : Rising l) : Rising (putCell k v l) := by
  induction l with
  | nil => exact consCell_rising List.Pairwise.nil (by simp)
  | cons p l ih =>
    have hp := List.pairwise_cons.1 hl
    unfold putCell
    split
    · next hk =>
      refine consCell_rising hl fun q hq => ?_
      rcases List.mem_cons.1 hq with h | h
      · subst h; exact hk
      · exact Nat.lt_trans hk (hp.1 q h)
    · split
      · next hk => exact consCell_rising hp.2 fun q hq => hk ▸ hp.1 q hq
      · next h1 h2 =>
        refine List.pairwise_cons.2 ⟨fun q hq => ?_, ih hp.2⟩
        rcases mem_putCell hq with h | ⟨h, -⟩
        · exact hp.1 q h
        · subst h; show p.1 < k; omega

theorem cellAt_putCell_same (k : Nat) (v : Byte) {l : List Host.Cell} (hl : Rising l) : cellAt (putCell k v l) k = v := by
  induction l with
  | nil => exact cellAt_consCell_same k v [] (by simp)
  | cons p l ih =>
    have hp := List.pairwise_cons.1 hl
    unfold putCell
    split
    · next hk =>
      refine cellAt_consCell_same k v _ fun q hq => ?_
      rcases List.mem_cons.1 hq with h | h
      · subst h; exact hk
      · exact Nat.lt_trans hk (hp.1 q h)
    · split
      · next hk => exact cellAt_consCell_same k v _ fun q hq => hk ▸ hp.1 q hq
      · next h1 h2 =>
        have : p.1 ≠ k := fun h => h2 h.symm
        simp only [cellAt, this, if_false]
        exact ih hp.2

theorem cellAt_putCell_other {k j : Nat} (hkj : j ≠ k) (v : Byte) (l : List Host.Cell) :
    cellAt (putCell k v l) j = cellAt l j := by
  induction l with
  | nil => exact cellAt_consCell_other hkj v []
  | cons p l ih =>
    unfold putCell
    split
    · exact cellAt_consCell_other hkj v _
    · split
      · next hk =>
        have : p.1 ≠ j := fun h => hkj (h.symm.trans hk.symm)
        rw [cellAt_consCell_other hkj, cellAt, if_neg this]
      · simp only [cellAt]
        split
        · rfl
        · exact ih

/-- What the canonical form says, as propositions. -/
theorem Memory.wf_iff (m : Memory) :
    m.wf = true ↔ Rising m.cells ∧ ∀ p ∈ m.cells, p.1 < 131072 ∧ p.2 ≠ Memory.unlisted := by
  simp [Memory.wf, Rising]

/-- A write keeps the canonical form. -/
theorem Memory.write_wf {m : Memory} (h : m.wf = true) (a v : Word) : (m.write a v).wf = true := by
  rw [Memory.wf_iff] at h ⊢
  refine ⟨putCell_rising (putCell_rising h.1), fun p hp => ?_⟩
  have ha := a.isLt
  rcases mem_putCell hp with hp | ⟨rfl, hv⟩
  · rcases mem_putCell hp with hp | ⟨rfl, hv⟩
    · exact h.2 p hp
    · exact ⟨show 2 * a.toNat < 131072 by omega, hv⟩
  · exact ⟨show 2 * a.toNat + 1 < 131072 by omega, hv⟩

/-- Writing a list of words keeps the canonical form. -/
theorem Memory.writeList_wf {m : Memory} (h : m.wf = true) (a : Word) (ws : List Word) : (m.writeList a ws).wf = true := by
  induction ws generalizing m a with
  | nil => exact h
  | cons w ws ih => exact ih (Memory.write_wf h a w) (a + 1#16)

/-- R50: a word reads as what was last written to it, in a memory in canonical form. -/
theorem Memory.read_write_same {m : Memory} (h : m.wf = true) (a v : Word) : (m.write a v).read a = v := by
  have hr := ((Memory.wf_iff m).1 h).1
  have hlo : 2 * a.toNat ≠ 2 * a.toNat + 1 := by omega
  simp only [Memory.read, Memory.write]
  rw [cellAt_putCell_same _ _ (putCell_rising hr), cellAt_putCell_other hlo, cellAt_putCell_same _ _ hr]
  ext i hi
  simp only [BitVec.getElem_append, BitVec.getElem_extractLsb']
  split
  · simp [BitVec.getLsbD_eq_getElem hi]
  · have : 8 + (i - 8) = i := by omega
    rw [this, BitVec.getLsbD_eq_getElem hi]

/-- R50: every other word reads as before. -/
theorem Memory.read_write_other (m : Memory) {a b : Word} (h : b ≠ a) (v : Word) : (m.write a v).read b = m.read b := by
  have hn : b.toNat ≠ a.toNat := fun e => h (BitVec.eq_of_toNat_eq e)
  simp only [Memory.read, Memory.write]
  have e1 : 2 * b.toNat + 1 ≠ 2 * a.toNat + 1 := by omega
  have e2 : 2 * b.toNat + 1 ≠ 2 * a.toNat := by omega
  have e3 : 2 * b.toNat ≠ 2 * a.toNat + 1 := by omega
  have e4 : 2 * b.toNat ≠ 2 * a.toNat := by omega
  rw [cellAt_putCell_other e1, cellAt_putCell_other e2, cellAt_putCell_other e3, cellAt_putCell_other e4]

end Sys2Proof.Machine
end

