-- ==== Sys2Proof/Laws/State.lean ====
section
/-! SUPPORT. One lemma per field per update of the state, each true by `rfl`. -/

namespace Sys2Proof.Machine

variable (s : State)

@[simp] theorem State.setReg_regs (r : Reg) (v : Word) : (s.setReg r v).regs = s.regs.set r v := rfl
@[simp] theorem State.setReg_pc (r : Reg) (v : Word) : (s.setReg r v).pc = s.pc := rfl
@[simp] theorem State.setReg_sp (r : Reg) (v : Word) : (s.setReg r v).sp = s.sp := rfl
@[simp] theorem State.setReg_ex (r : Reg) (v : Word) : (s.setReg r v).ex = s.ex := rfl
@[simp] theorem State.setReg_ia (r : Reg) (v : Word) : (s.setReg r v).ia = s.ia := rfl
@[simp] theorem State.setReg_mem (r : Reg) (v : Word) : (s.setReg r v).mem = s.mem := rfl
@[simp] theorem State.setReg_cpuState (r : Reg) (v : Word) : (s.setReg r v).cpuState = s.cpuState := rfl
@[simp] theorem State.setReg_ie (r : Reg) (v : Word) : (s.setReg r v).ie = s.ie := rfl
@[simp] theorem State.setReg_iq (r : Reg) (v : Word) : (s.setReg r v).iq = s.iq := rfl
@[simp] theorem State.setReg_t (r : Reg) (v : Word) : (s.setReg r v).t = s.t := rfl
@[simp] theorem State.setReg_wq (r : Reg) (v : Word) : (s.setReg r v).wq = s.wq := rfl
@[simp] theorem State.setReg_initPending (r : Reg) (v : Word) : (s.setReg r v).initPending = s.initPending := rfl
@[simp] theorem State.setReg_flushing (r : Reg) (v : Word) : (s.setReg r v).flushing = s.flushing := rfl
@[simp] theorem State.setReg_deferred (r : Reg) (v : Word) : (s.setReg r v).deferred = s.deferred := rfl
@[simp] theorem State.setReg_cycles (r : Reg) (v : Word) : (s.setReg r v).cycles = s.cycles := rfl
@[simp] theorem State.setReg_calls (r : Reg) (v : Word) : (s.setReg r v).calls = s.calls := rfl
@[simp] theorem State.setReg_devState (r : Reg) (v : Word) : (s.setReg r v).devState = s.devState := rfl

@[simp] theorem State.setPc_regs (v : Word) : (s.setPc v).regs = s.regs := rfl
@[simp] theorem State.setPc_pc (v : Word) : (s.setPc v).pc = v := rfl
@[simp] theorem State.setPc_sp (v : Word) : (s.setPc v).sp = s.sp := rfl
@[simp] theorem State.setPc_ex (v : Word) : (s.setPc v).ex = s.ex := rfl
@[simp] theorem State.setPc_ia (v : Word) : (s.setPc v).ia = s.ia := rfl
@[simp] theorem State.setPc_mem (v : Word) : (s.setPc v).mem = s.mem := rfl
@[simp] theorem State.setPc_cpuState (v : Word) : (s.setPc v).cpuState = s.cpuState := rfl
@[simp] theorem State.setPc_ie (v : Word) : (s.setPc v).ie = s.ie := rfl
@[simp] theorem State.setPc_iq (v : Word) : (s.setPc v).iq = s.iq := rfl
@[simp] theorem State.setPc_t (v : Word) : (s.setPc v).t = s.t := rfl
@[simp] theorem State.setPc_wq (v : Word) : (s.setPc v).wq = s.wq := rfl
@[simp] theorem State.setPc_initPending (v : Word) : (s.setPc v).initPending = s.initPending := rfl
@[simp] theorem State.setPc_flushing (v : Word) : (s.setPc v).flushing = s.flushing := rfl
@[simp] theorem State.setPc_deferred (v : Word) : (s.setPc v).deferred = s.deferred := rfl
@[simp] theorem State.setPc_cycles (v : Word) : (s.setPc v).cycles = s.cycles := rfl
@[simp] theorem State.setPc_calls (v : Word) : (s.setPc v).calls = s.calls := rfl
@[simp] theorem State.setPc_devState (v : Word) : (s.setPc v).devState = s.devState := rfl

@[simp] theorem State.setSp_regs (v : Word) : (s.setSp v).regs = s.regs := rfl
@[simp] theorem State.setSp_pc (v : Word) : (s.setSp v).pc = s.pc := rfl
@[simp] theorem State.setSp_sp (v : Word) : (s.setSp v).sp = v := rfl
@[simp] theorem State.setSp_ex (v : Word) : (s.setSp v).ex = s.ex := rfl
@[simp] theorem State.setSp_ia (v : Word) : (s.setSp v).ia = s.ia := rfl
@[simp] theorem State.setSp_mem (v : Word) : (s.setSp v).mem = s.mem := rfl
@[simp] theorem State.setSp_cpuState (v : Word) : (s.setSp v).cpuState = s.cpuState := rfl
@[simp] theorem State.setSp_ie (v : Word) : (s.setSp v).ie = s.ie := rfl
@[simp] theorem State.setSp_iq (v : Word) : (s.setSp v).iq = s.iq := rfl
@[simp] theorem State.setSp_t (v : Word) : (s.setSp v).t = s.t := rfl
@[simp] theorem State.setSp_wq (v : Word) : (s.setSp v).wq = s.wq := rfl
@[simp] theorem State.setSp_initPending (v : Word) : (s.setSp v).initPending = s.initPending := rfl
@[simp] theorem State.setSp_flushing (v : Word) : (s.setSp v).flushing = s.flushing := rfl
@[simp] theorem State.setSp_deferred (v : Word) : (s.setSp v).deferred = s.deferred := rfl
@[simp] theorem State.setSp_cycles (v : Word) : (s.setSp v).cycles = s.cycles := rfl
@[simp] theorem State.setSp_calls (v : Word) : (s.setSp v).calls = s.calls := rfl
@[simp] theorem State.setSp_devState (v : Word) : (s.setSp v).devState = s.devState := rfl

@[simp] theorem State.setEx_regs (v : Word) : (s.setEx v).regs = s.regs := rfl
@[simp] theorem State.setEx_pc (v : Word) : (s.setEx v).pc = s.pc := rfl
@[simp] theorem State.setEx_sp (v : Word) : (s.setEx v).sp = s.sp := rfl
@[simp] theorem State.setEx_ex (v : Word) : (s.setEx v).ex = v := rfl
@[simp] theorem State.setEx_ia (v : Word) : (s.setEx v).ia = s.ia := rfl
@[simp] theorem State.setEx_mem (v : Word) : (s.setEx v).mem = s.mem := rfl
@[simp] theorem State.setEx_cpuState (v : Word) : (s.setEx v).cpuState = s.cpuState := rfl
@[simp] theorem State.setEx_ie (v : Word) : (s.setEx v).ie = s.ie := rfl
@[simp] theorem State.setEx_iq (v : Word) : (s.setEx v).iq = s.iq := rfl
@[simp] theorem State.setEx_t (v : Word) : (s.setEx v).t = s.t := rfl
@[simp] theorem State.setEx_wq (v : Word) : (s.setEx v).wq = s.wq := rfl
@[simp] theorem State.setEx_initPending (v : Word) : (s.setEx v).initPending = s.initPending := rfl
@[simp] theorem State.setEx_flushing (v : Word) : (s.setEx v).flushing = s.flushing := rfl
@[simp] theorem State.setEx_deferred (v : Word) : (s.setEx v).deferred = s.deferred := rfl
@[simp] theorem State.setEx_cycles (v : Word) : (s.setEx v).cycles = s.cycles := rfl
@[simp] theorem State.setEx_calls (v : Word) : (s.setEx v).calls = s.calls := rfl
@[simp] theorem State.setEx_devState (v : Word) : (s.setEx v).devState = s.devState := rfl

@[simp] theorem State.setIa_regs (v : Word) : (s.setIa v).regs = s.regs := rfl
@[simp] theorem State.setIa_pc (v : Word) : (s.setIa v).pc = s.pc := rfl
@[simp] theorem State.setIa_sp (v : Word) : (s.setIa v).sp = s.sp := rfl
@[simp] theorem State.setIa_ex (v : Word) : (s.setIa v).ex = s.ex := rfl
@[simp] theorem State.setIa_ia (v : Word) : (s.setIa v).ia = v := rfl
@[simp] theorem State.setIa_mem (v : Word) : (s.setIa v).mem = s.mem := rfl
@[simp] theorem State.setIa_cpuState (v : Word) : (s.setIa v).cpuState = s.cpuState := rfl
@[simp] theorem State.setIa_ie (v : Word) : (s.setIa v).ie = s.ie := rfl
@[simp] theorem State.setIa_iq (v : Word) : (s.setIa v).iq = s.iq := rfl
@[simp] theorem State.setIa_t (v : Word) : (s.setIa v).t = s.t := rfl
@[simp] theorem State.setIa_wq (v : Word) : (s.setIa v).wq = s.wq := rfl
@[simp] theorem State.setIa_initPending (v : Word) : (s.setIa v).initPending = s.initPending := rfl
@[simp] theorem State.setIa_flushing (v : Word) : (s.setIa v).flushing = s.flushing := rfl
@[simp] theorem State.setIa_deferred (v : Word) : (s.setIa v).deferred = s.deferred := rfl
@[simp] theorem State.setIa_cycles (v : Word) : (s.setIa v).cycles = s.cycles := rfl
@[simp] theorem State.setIa_calls (v : Word) : (s.setIa v).calls = s.calls := rfl
@[simp] theorem State.setIa_devState (v : Word) : (s.setIa v).devState = s.devState := rfl

@[simp] theorem State.setMem_regs (v : Memory) : (s.setMem v).regs = s.regs := rfl
@[simp] theorem State.setMem_pc (v : Memory) : (s.setMem v).pc = s.pc := rfl
@[simp] theorem State.setMem_sp (v : Memory) : (s.setMem v).sp = s.sp := rfl
@[simp] theorem State.setMem_ex (v : Memory) : (s.setMem v).ex = s.ex := rfl
@[simp] theorem State.setMem_ia (v : Memory) : (s.setMem v).ia = s.ia := rfl
@[simp] theorem State.setMem_mem (v : Memory) : (s.setMem v).mem = v := rfl
@[simp] theorem State.setMem_cpuState (v : Memory) : (s.setMem v).cpuState = s.cpuState := rfl
@[simp] theorem State.setMem_ie (v : Memory) : (s.setMem v).ie = s.ie := rfl
@[simp] theorem State.setMem_iq (v : Memory) : (s.setMem v).iq = s.iq := rfl
@[simp] theorem State.setMem_t (v : Memory) : (s.setMem v).t = s.t := rfl
@[simp] theorem State.setMem_wq (v : Memory) : (s.setMem v).wq = s.wq := rfl
@[simp] theorem State.setMem_initPending (v : Memory) : (s.setMem v).initPending = s.initPending := rfl
@[simp] theorem State.setMem_flushing (v : Memory) : (s.setMem v).flushing = s.flushing := rfl
@[simp] theorem State.setMem_deferred (v : Memory) : (s.setMem v).deferred = s.deferred := rfl
@[simp] theorem State.setMem_cycles (v : Memory) : (s.setMem v).cycles = s.cycles := rfl
@[simp] theorem State.setMem_calls (v : Memory) : (s.setMem v).calls = s.calls := rfl
@[simp] theorem State.setMem_devState (v : Memory) : (s.setMem v).devState = s.devState := rfl

@[simp] theorem State.setCpuState_regs (v : CpuState) : (s.setCpuState v).regs = s.regs := rfl
@[simp] theorem State.setCpuState_pc (v : CpuState) : (s.setCpuState v).pc = s.pc := rfl
@[simp] theorem State.setCpuState_sp (v : CpuState) : (s.setCpuState v).sp = s.sp := rfl
@[simp] theorem State.setCpuState_ex (v : CpuState) : (s.setCpuState v).ex = s.ex := rfl
@[simp] theorem State.setCpuState_ia (v : CpuState) : (s.setCpuState v).ia = s.ia := rfl
@[simp] theorem State.setCpuState_mem (v : CpuState) : (s.setCpuState v).mem = s.mem := rfl
@[simp] theorem State.setCpuState_cpuState (v : CpuState) : (s.setCpuState v).cpuState = v := rfl
@[simp] theorem State.setCpuState_ie (v : CpuState) : (s.setCpuState v).ie = s.ie := rfl
@[simp] theorem State.setCpuState_iq (v : CpuState) : (s.setCpuState v).iq = s.iq := rfl
@[simp] theorem State.setCpuState_t (v : CpuState) : (s.setCpuState v).t = s.t := rfl
@[simp] theorem State.setCpuState_wq (v : CpuState) : (s.setCpuState v).wq = s.wq := rfl
@[simp] theorem State.setCpuState_initPending (v : CpuState) : (s.setCpuState v).initPending = s.initPending := rfl
@[simp] theorem State.setCpuState_flushing (v : CpuState) : (s.setCpuState v).flushing = s.flushing := rfl
@[simp] theorem State.setCpuState_deferred (v : CpuState) : (s.setCpuState v).deferred = s.deferred := rfl
@[simp] theorem State.setCpuState_cycles (v : CpuState) : (s.setCpuState v).cycles = s.cycles := rfl
@[simp] theorem State.setCpuState_calls (v : CpuState) : (s.setCpuState v).calls = s.calls := rfl
@[simp] theorem State.setCpuState_devState (v : CpuState) : (s.setCpuState v).devState = s.devState := rfl

@[simp] theorem State.setIe_regs (v : Bool) : (s.setIe v).regs = s.regs := rfl
@[simp] theorem State.setIe_pc (v : Bool) : (s.setIe v).pc = s.pc := rfl
@[simp] theorem State.setIe_sp (v : Bool) : (s.setIe v).sp = s.sp := rfl
@[simp] theorem State.setIe_ex (v : Bool) : (s.setIe v).ex = s.ex := rfl
@[simp] theorem State.setIe_ia (v : Bool) : (s.setIe v).ia = s.ia := rfl
@[simp] theorem State.setIe_mem (v : Bool) : (s.setIe v).mem = s.mem := rfl
@[simp] theorem State.setIe_cpuState (v : Bool) : (s.setIe v).cpuState = s.cpuState := rfl
@[simp] theorem State.setIe_ie (v : Bool) : (s.setIe v).ie = v := rfl
@[simp] theorem State.setIe_iq (v : Bool) : (s.setIe v).iq = s.iq := rfl
@[simp] theorem State.setIe_t (v : Bool) : (s.setIe v).t = s.t := rfl
@[simp] theorem State.setIe_wq (v : Bool) : (s.setIe v).wq = s.wq := rfl
@[simp] theorem State.setIe_initPending (v : Bool) : (s.setIe v).initPending = s.initPending := rfl
@[simp] theorem State.setIe_flushing (v : Bool) : (s.setIe v).flushing = s.flushing := rfl
@[simp] theorem State.setIe_deferred (v : Bool) : (s.setIe v).deferred = s.deferred := rfl
@[simp] theorem State.setIe_cycles (v : Bool) : (s.setIe v).cycles = s.cycles := rfl
@[simp] theorem State.setIe_calls (v : Bool) : (s.setIe v).calls = s.calls := rfl
@[simp] theorem State.setIe_devState (v : Bool) : (s.setIe v).devState = s.devState := rfl

@[simp] theorem State.setIq_regs (v : List Word) : (s.setIq v).regs = s.regs := rfl
@[simp] theorem State.setIq_pc (v : List Word) : (s.setIq v).pc = s.pc := rfl
@[simp] theorem State.setIq_sp (v : List Word) : (s.setIq v).sp = s.sp := rfl
@[simp] theorem State.setIq_ex (v : List Word) : (s.setIq v).ex = s.ex := rfl
@[simp] theorem State.setIq_ia (v : List Word) : (s.setIq v).ia = s.ia := rfl
@[simp] theorem State.setIq_mem (v : List Word) : (s.setIq v).mem = s.mem := rfl
@[simp] theorem State.setIq_cpuState (v : List Word) : (s.setIq v).cpuState = s.cpuState := rfl
@[simp] theorem State.setIq_ie (v : List Word) : (s.setIq v).ie = s.ie := rfl
@[simp] theorem State.setIq_iq (v : List Word) : (s.setIq v).iq = v := rfl
@[simp] theorem State.setIq_t (v : List Word) : (s.setIq v).t = s.t := rfl
@[simp] theorem State.setIq_wq (v : List Word) : (s.setIq v).wq = s.wq := rfl
@[simp] theorem State.setIq_initPending (v : List Word) : (s.setIq v).initPending = s.initPending := rfl
@[simp] theorem State.setIq_flushing (v : List Word) : (s.setIq v).flushing = s.flushing := rfl
@[simp] theorem State.setIq_deferred (v : List Word) : (s.setIq v).deferred = s.deferred := rfl
@[simp] theorem State.setIq_cycles (v : List Word) : (s.setIq v).cycles = s.cycles := rfl
@[simp] theorem State.setIq_calls (v : List Word) : (s.setIq v).calls = s.calls := rfl
@[simp] theorem State.setIq_devState (v : List Word) : (s.setIq v).devState = s.devState := rfl

@[simp] theorem State.setT_regs (v : Nat) : (s.setT v).regs = s.regs := rfl
@[simp] theorem State.setT_pc (v : Nat) : (s.setT v).pc = s.pc := rfl
@[simp] theorem State.setT_sp (v : Nat) : (s.setT v).sp = s.sp := rfl
@[simp] theorem State.setT_ex (v : Nat) : (s.setT v).ex = s.ex := rfl
@[simp] theorem State.setT_ia (v : Nat) : (s.setT v).ia = s.ia := rfl
@[simp] theorem State.setT_mem (v : Nat) : (s.setT v).mem = s.mem := rfl
@[simp] theorem State.setT_cpuState (v : Nat) : (s.setT v).cpuState = s.cpuState := rfl
@[simp] theorem State.setT_ie (v : Nat) : (s.setT v).ie = s.ie := rfl
@[simp] theorem State.setT_iq (v : Nat) : (s.setT v).iq = s.iq := rfl
@[simp] theorem State.setT_t (v : Nat) : (s.setT v).t = v := rfl
@[simp] theorem State.setT_wq (v : Nat) : (s.setT v).wq = s.wq := rfl
@[simp] theorem State.setT_initPending (v : Nat) : (s.setT v).initPending = s.initPending := rfl
@[simp] theorem State.setT_flushing (v : Nat) : (s.setT v).flushing = s.flushing := rfl
@[simp] theorem State.setT_deferred (v : Nat) : (s.setT v).deferred = s.deferred := rfl
@[simp] theorem State.setT_cycles (v : Nat) : (s.setT v).cycles = s.cycles := rfl
@[simp] theorem State.setT_calls (v : Nat) : (s.setT v).calls = s.calls := rfl
@[simp] theorem State.setT_devState (v : Nat) : (s.setT v).devState = s.devState := rfl

@[simp] theorem State.setWq_regs (v : List WakeRequest) : (s.setWq v).regs = s.regs := rfl
@[simp] theorem State.setWq_pc (v : List WakeRequest) : (s.setWq v).pc = s.pc := rfl
@[simp] theorem State.setWq_sp (v : List WakeRequest) : (s.setWq v).sp = s.sp := rfl
@[simp] theorem State.setWq_ex (v : List WakeRequest) : (s.setWq v).ex = s.ex := rfl
@[simp] theorem State.setWq_ia (v : List WakeRequest) : (s.setWq v).ia = s.ia := rfl
@[simp] theorem State.setWq_mem (v : List WakeRequest) : (s.setWq v).mem = s.mem := rfl
@[simp] theorem State.setWq_cpuState (v : List WakeRequest) : (s.setWq v).cpuState = s.cpuState := rfl
@[simp] theorem State.setWq_ie (v : List WakeRequest) : (s.setWq v).ie = s.ie := rfl
@[simp] theorem State.setWq_iq (v : List WakeRequest) : (s.setWq v).iq = s.iq := rfl
@[simp] theorem State.setWq_t (v : List WakeRequest) : (s.setWq v).t = s.t := rfl
@[simp] theorem State.setWq_wq (v : List WakeRequest) : (s.setWq v).wq = v := rfl
@[simp] theorem State.setWq_initPending (v : List WakeRequest) : (s.setWq v).initPending = s.initPending := rfl
@[simp] theorem State.setWq_flushing (v : List WakeRequest) : (s.setWq v).flushing = s.flushing := rfl
@[simp] theorem State.setWq_deferred (v : List WakeRequest) : (s.setWq v).deferred = s.deferred := rfl
@[simp] theorem State.setWq_cycles (v : List WakeRequest) : (s.setWq v).cycles = s.cycles := rfl
@[simp] theorem State.setWq_calls (v : List WakeRequest) : (s.setWq v).calls = s.calls := rfl
@[simp] theorem State.setWq_devState (v : List WakeRequest) : (s.setWq v).devState = s.devState := rfl

@[simp] theorem State.setInitPending_regs (v : Bool) : (s.setInitPending v).regs = s.regs := rfl
@[simp] theorem State.setInitPending_pc (v : Bool) : (s.setInitPending v).pc = s.pc := rfl
@[simp] theorem State.setInitPending_sp (v : Bool) : (s.setInitPending v).sp = s.sp := rfl
@[simp] theorem State.setInitPending_ex (v : Bool) : (s.setInitPending v).ex = s.ex := rfl
@[simp] theorem State.setInitPending_ia (v : Bool) : (s.setInitPending v).ia = s.ia := rfl
@[simp] theorem State.setInitPending_mem (v : Bool) : (s.setInitPending v).mem = s.mem := rfl
@[simp] theorem State.setInitPending_cpuState (v : Bool) : (s.setInitPending v).cpuState = s.cpuState := rfl
@[simp] theorem State.setInitPending_ie (v : Bool) : (s.setInitPending v).ie = s.ie := rfl
@[simp] theorem State.setInitPending_iq (v : Bool) : (s.setInitPending v).iq = s.iq := rfl
@[simp] theorem State.setInitPending_t (v : Bool) : (s.setInitPending v).t = s.t := rfl
@[simp] theorem State.setInitPending_wq (v : Bool) : (s.setInitPending v).wq = s.wq := rfl
@[simp] theorem State.setInitPending_initPending (v : Bool) : (s.setInitPending v).initPending = v := rfl
@[simp] theorem State.setInitPending_flushing (v : Bool) : (s.setInitPending v).flushing = s.flushing := rfl
@[simp] theorem State.setInitPending_deferred (v : Bool) : (s.setInitPending v).deferred = s.deferred := rfl
@[simp] theorem State.setInitPending_cycles (v : Bool) : (s.setInitPending v).cycles = s.cycles := rfl
@[simp] theorem State.setInitPending_calls (v : Bool) : (s.setInitPending v).calls = s.calls := rfl
@[simp] theorem State.setInitPending_devState (v : Bool) : (s.setInitPending v).devState = s.devState := rfl

@[simp] theorem State.setFlushing_regs (v : Bool) : (s.setFlushing v).regs = s.regs := rfl
@[simp] theorem State.setFlushing_pc (v : Bool) : (s.setFlushing v).pc = s.pc := rfl
@[simp] theorem State.setFlushing_sp (v : Bool) : (s.setFlushing v).sp = s.sp := rfl
@[simp] theorem State.setFlushing_ex (v : Bool) : (s.setFlushing v).ex = s.ex := rfl
@[simp] theorem State.setFlushing_ia (v : Bool) : (s.setFlushing v).ia = s.ia := rfl
@[simp] theorem State.setFlushing_mem (v : Bool) : (s.setFlushing v).mem = s.mem := rfl
@[simp] theorem State.setFlushing_cpuState (v : Bool) : (s.setFlushing v).cpuState = s.cpuState := rfl
@[simp] theorem State.setFlushing_ie (v : Bool) : (s.setFlushing v).ie = s.ie := rfl
@[simp] theorem State.setFlushing_iq (v : Bool) : (s.setFlushing v).iq = s.iq := rfl
@[simp] theorem State.setFlushing_t (v : Bool) : (s.setFlushing v).t = s.t := rfl
@[simp] theorem State.setFlushing_wq (v : Bool) : (s.setFlushing v).wq = s.wq := rfl
@[simp] theorem State.setFlushing_initPending (v : Bool) : (s.setFlushing v).initPending = s.initPending := rfl
@[simp] theorem State.setFlushing_flushing (v : Bool) : (s.setFlushing v).flushing = v := rfl
@[simp] theorem State.setFlushing_deferred (v : Bool) : (s.setFlushing v).deferred = s.deferred := rfl
@[simp] theorem State.setFlushing_cycles (v : Bool) : (s.setFlushing v).cycles = s.cycles := rfl
@[simp] theorem State.setFlushing_calls (v : Bool) : (s.setFlushing v).calls = s.calls := rfl
@[simp] theorem State.setFlushing_devState (v : Bool) : (s.setFlushing v).devState = s.devState := rfl

@[simp] theorem State.setDeferred_regs (v : List WakeRequest) : (s.setDeferred v).regs = s.regs := rfl
@[simp] theorem State.setDeferred_pc (v : List WakeRequest) : (s.setDeferred v).pc = s.pc := rfl
@[simp] theorem State.setDeferred_sp (v : List WakeRequest) : (s.setDeferred v).sp = s.sp := rfl
@[simp] theorem State.setDeferred_ex (v : List WakeRequest) : (s.setDeferred v).ex = s.ex := rfl
@[simp] theorem State.setDeferred_ia (v : List WakeRequest) : (s.setDeferred v).ia = s.ia := rfl
@[simp] theorem State.setDeferred_mem (v : List WakeRequest) : (s.setDeferred v).mem = s.mem := rfl
@[simp] theorem State.setDeferred_cpuState (v : List WakeRequest) : (s.setDeferred v).cpuState = s.cpuState := rfl
@[simp] theorem State.setDeferred_ie (v : List WakeRequest) : (s.setDeferred v).ie = s.ie := rfl
@[simp] theorem State.setDeferred_iq (v : List WakeRequest) : (s.setDeferred v).iq = s.iq := rfl
@[simp] theorem State.setDeferred_t (v : List WakeRequest) : (s.setDeferred v).t = s.t := rfl
@[simp] theorem State.setDeferred_wq (v : List WakeRequest) : (s.setDeferred v).wq = s.wq := rfl
@[simp] theorem State.setDeferred_initPending (v : List WakeRequest) : (s.setDeferred v).initPending = s.initPending := rfl
@[simp] theorem State.setDeferred_flushing (v : List WakeRequest) : (s.setDeferred v).flushing = s.flushing := rfl
@[simp] theorem State.setDeferred_deferred (v : List WakeRequest) : (s.setDeferred v).deferred = v := rfl
@[simp] theorem State.setDeferred_cycles (v : List WakeRequest) : (s.setDeferred v).cycles = s.cycles := rfl
@[simp] theorem State.setDeferred_calls (v : List WakeRequest) : (s.setDeferred v).calls = s.calls := rfl
@[simp] theorem State.setDeferred_devState (v : List WakeRequest) : (s.setDeferred v).devState = s.devState := rfl

@[simp] theorem State.setCycles_regs (v : Nat) : (s.setCycles v).regs = s.regs := rfl
@[simp] theorem State.setCycles_pc (v : Nat) : (s.setCycles v).pc = s.pc := rfl
@[simp] theorem State.setCycles_sp (v : Nat) : (s.setCycles v).sp = s.sp := rfl
@[simp] theorem State.setCycles_ex (v : Nat) : (s.setCycles v).ex = s.ex := rfl
@[simp] theorem State.setCycles_ia (v : Nat) : (s.setCycles v).ia = s.ia := rfl
@[simp] theorem State.setCycles_mem (v : Nat) : (s.setCycles v).mem = s.mem := rfl
@[simp] theorem State.setCycles_cpuState (v : Nat) : (s.setCycles v).cpuState = s.cpuState := rfl
@[simp] theorem State.setCycles_ie (v : Nat) : (s.setCycles v).ie = s.ie := rfl
@[simp] theorem State.setCycles_iq (v : Nat) : (s.setCycles v).iq = s.iq := rfl
@[simp] theorem State.setCycles_t (v : Nat) : (s.setCycles v).t = s.t := rfl
@[simp] theorem State.setCycles_wq (v : Nat) : (s.setCycles v).wq = s.wq := rfl
@[simp] theorem State.setCycles_initPending (v : Nat) : (s.setCycles v).initPending = s.initPending := rfl
@[simp] theorem State.setCycles_flushing (v : Nat) : (s.setCycles v).flushing = s.flushing := rfl
@[simp] theorem State.setCycles_deferred (v : Nat) : (s.setCycles v).deferred = s.deferred := rfl
@[simp] theorem State.setCycles_cycles (v : Nat) : (s.setCycles v).cycles = v := rfl
@[simp] theorem State.setCycles_calls (v : Nat) : (s.setCycles v).calls = s.calls := rfl
@[simp] theorem State.setCycles_devState (v : Nat) : (s.setCycles v).devState = s.devState := rfl

@[simp] theorem State.setCalls_regs (v : List DeviceCall) : (s.setCalls v).regs = s.regs := rfl
@[simp] theorem State.setCalls_pc (v : List DeviceCall) : (s.setCalls v).pc = s.pc := rfl
@[simp] theorem State.setCalls_sp (v : List DeviceCall) : (s.setCalls v).sp = s.sp := rfl
@[simp] theorem State.setCalls_ex (v : List DeviceCall) : (s.setCalls v).ex = s.ex := rfl
@[simp] theorem State.setCalls_ia (v : List DeviceCall) : (s.setCalls v).ia = s.ia := rfl
@[simp] theorem State.setCalls_mem (v : List DeviceCall) : (s.setCalls v).mem = s.mem := rfl
@[simp] theorem State.setCalls_cpuState (v : List DeviceCall) : (s.setCalls v).cpuState = s.cpuState := rfl
@[simp] theorem State.setCalls_ie (v : List DeviceCall) : (s.setCalls v).ie = s.ie := rfl
@[simp] theorem State.setCalls_iq (v : List DeviceCall) : (s.setCalls v).iq = s.iq := rfl
@[simp] theorem State.setCalls_t (v : List DeviceCall) : (s.setCalls v).t = s.t := rfl
@[simp] theorem State.setCalls_wq (v : List DeviceCall) : (s.setCalls v).wq = s.wq := rfl
@[simp] theorem State.setCalls_initPending (v : List DeviceCall) : (s.setCalls v).initPending = s.initPending := rfl
@[simp] theorem State.setCalls_flushing (v : List DeviceCall) : (s.setCalls v).flushing = s.flushing := rfl
@[simp] theorem State.setCalls_deferred (v : List DeviceCall) : (s.setCalls v).deferred = s.deferred := rfl
@[simp] theorem State.setCalls_cycles (v : List DeviceCall) : (s.setCalls v).cycles = s.cycles := rfl
@[simp] theorem State.setCalls_calls (v : List DeviceCall) : (s.setCalls v).calls = v := rfl
@[simp] theorem State.setCalls_devState (v : List DeviceCall) : (s.setCalls v).devState = s.devState := rfl

@[simp] theorem State.setDevState_regs (v : Nat) : (s.setDevState v).regs = s.regs := rfl
@[simp] theorem State.setDevState_pc (v : Nat) : (s.setDevState v).pc = s.pc := rfl
@[simp] theorem State.setDevState_sp (v : Nat) : (s.setDevState v).sp = s.sp := rfl
@[simp] theorem State.setDevState_ex (v : Nat) : (s.setDevState v).ex = s.ex := rfl
@[simp] theorem State.setDevState_ia (v : Nat) : (s.setDevState v).ia = s.ia := rfl
@[simp] theorem State.setDevState_mem (v : Nat) : (s.setDevState v).mem = s.mem := rfl
@[simp] theorem State.setDevState_cpuState (v : Nat) : (s.setDevState v).cpuState = s.cpuState := rfl
@[simp] theorem State.setDevState_ie (v : Nat) : (s.setDevState v).ie = s.ie := rfl
@[simp] theorem State.setDevState_iq (v : Nat) : (s.setDevState v).iq = s.iq := rfl
@[simp] theorem State.setDevState_t (v : Nat) : (s.setDevState v).t = s.t := rfl
@[simp] theorem State.setDevState_wq (v : Nat) : (s.setDevState v).wq = s.wq := rfl
@[simp] theorem State.setDevState_initPending (v : Nat) : (s.setDevState v).initPending = s.initPending := rfl
@[simp] theorem State.setDevState_flushing (v : Nat) : (s.setDevState v).flushing = s.flushing := rfl
@[simp] theorem State.setDevState_deferred (v : Nat) : (s.setDevState v).deferred = s.deferred := rfl
@[simp] theorem State.setDevState_cycles (v : Nat) : (s.setDevState v).cycles = s.cycles := rfl
@[simp] theorem State.setDevState_calls (v : Nat) : (s.setDevState v).calls = s.calls := rfl
@[simp] theorem State.setDevState_devState (v : Nat) : (s.setDevState v).devState = v := rfl

@[simp] theorem State.store_regs (a v : Word) : (s.store a v).regs = s.regs := rfl
@[simp] theorem State.store_pc (a v : Word) : (s.store a v).pc = s.pc := rfl
@[simp] theorem State.store_sp (a v : Word) : (s.store a v).sp = s.sp := rfl
@[simp] theorem State.store_ex (a v : Word) : (s.store a v).ex = s.ex := rfl
@[simp] theorem State.store_ia (a v : Word) : (s.store a v).ia = s.ia := rfl
@[simp] theorem State.store_mem (a v : Word) : (s.store a v).mem = s.mem.write a v := rfl
@[simp] theorem State.store_cpuState (a v : Word) : (s.store a v).cpuState = s.cpuState := rfl
@[simp] theorem State.store_ie (a v : Word) : (s.store a v).ie = s.ie := rfl
@[simp] theorem State.store_iq (a v : Word) : (s.store a v).iq = s.iq := rfl
@[simp] theorem State.store_t (a v : Word) : (s.store a v).t = s.t := rfl
@[simp] theorem State.store_wq (a v : Word) : (s.store a v).wq = s.wq := rfl
@[simp] theorem State.store_initPending (a v : Word) : (s.store a v).initPending = s.initPending := rfl
@[simp] theorem State.store_flushing (a v : Word) : (s.store a v).flushing = s.flushing := rfl
@[simp] theorem State.store_deferred (a v : Word) : (s.store a v).deferred = s.deferred := rfl
@[simp] theorem State.store_cycles (a v : Word) : (s.store a v).cycles = s.cycles := rfl
@[simp] theorem State.store_calls (a v : Word) : (s.store a v).calls = s.calls := rfl
@[simp] theorem State.store_devState (a v : Word) : (s.store a v).devState = s.devState := rfl

@[simp] theorem State.push_regs (v : Word) : (s.push v).regs = s.regs := rfl
@[simp] theorem State.push_pc (v : Word) : (s.push v).pc = s.pc := rfl
@[simp] theorem State.push_sp (v : Word) : (s.push v).sp = s.sp - 1#16 := rfl
@[simp] theorem State.push_ex (v : Word) : (s.push v).ex = s.ex := rfl
@[simp] theorem State.push_ia (v : Word) : (s.push v).ia = s.ia := rfl
@[simp] theorem State.push_mem (v : Word) : (s.push v).mem = s.mem.write (s.sp - 1#16) v := rfl
@[simp] theorem State.push_cpuState (v : Word) : (s.push v).cpuState = s.cpuState := rfl
@[simp] theorem State.push_ie (v : Word) : (s.push v).ie = s.ie := rfl
@[simp] theorem State.push_iq (v : Word) : (s.push v).iq = s.iq := rfl
@[simp] theorem State.push_t (v : Word) : (s.push v).t = s.t := rfl
@[simp] theorem State.push_wq (v : Word) : (s.push v).wq = s.wq := rfl
@[simp] theorem State.push_initPending (v : Word) : (s.push v).initPending = s.initPending := rfl
@[simp] theorem State.push_flushing (v : Word) : (s.push v).flushing = s.flushing := rfl
@[simp] theorem State.push_deferred (v : Word) : (s.push v).deferred = s.deferred := rfl
@[simp] theorem State.push_cycles (v : Word) : (s.push v).cycles = s.cycles := rfl
@[simp] theorem State.push_calls (v : Word) : (s.push v).calls = s.calls := rfl
@[simp] theorem State.push_devState (v : Word) : (s.push v).devState = s.devState := rfl

@[simp] theorem State.pop_value : s.pop.1 = s.mem.read s.sp := rfl
@[simp] theorem State.pop_state : s.pop.2 = s.setSp (s.sp + 1#16) := rfl

/-! ### The register file -/

@[simp] theorem Regs.get_set_same (g : Regs) (r : Reg) (v : Word) : (g.set r v).get r = v := by
  cases r <;> rfl

@[simp] theorem Regs.get_set_other (g : Regs) (r q : Reg) (v : Word) (h : q ≠ r) : (g.set r v).get q = g.get q := by
  cases r <;> cases q <;> first | rfl | exact absurd rfl h

/-- Two register files that agree on every register are equal. -/
theorem Regs.ext_get {g g' : Regs} (h : ∀ r, g.get r = g'.get r) : g = g' := by
  obtain ⟨a, b, c, x, y, z, i, j⟩ := g
  obtain ⟨a', b', c', x', y', z', i', j'⟩ := g'
  have ha := h .a
  have hb := h .b
  have hc := h .c
  have hx := h .x
  have hy := h .y
  have hz := h .z
  have hi := h .i
  have hj := h .j
  simp only [Regs.get] at ha hb hc hx hy hz hi hj
  subst ha hb hc hx hy hz hi hj
  rfl

@[simp] theorem State.reg_setReg_same (r : Reg) (v : Word) : (s.setReg r v).reg r = v :=
  Regs.get_set_same _ _ _

@[simp] theorem State.reg_setReg_other (r q : Reg) (v : Word) (h : q ≠ r) : (s.setReg r v).reg q = s.reg q :=
  Regs.get_set_other _ _ _ _ h

@[simp] theorem State.reg_setPc (q : Reg) (v : Word) : (s.setPc v).reg q = s.reg q := rfl
@[simp] theorem State.reg_setSp (q : Reg) (v : Word) : (s.setSp v).reg q = s.reg q := rfl
@[simp] theorem State.reg_setEx (q : Reg) (v : Word) : (s.setEx v).reg q = s.reg q := rfl
@[simp] theorem State.reg_setIa (q : Reg) (v : Word) : (s.setIa v).reg q = s.reg q := rfl
@[simp] theorem State.reg_setMem (q : Reg) (v : Memory) : (s.setMem v).reg q = s.reg q := rfl
@[simp] theorem State.reg_setCpuState (q : Reg) (v : CpuState) : (s.setCpuState v).reg q = s.reg q := rfl
@[simp] theorem State.reg_setIe (q : Reg) (v : Bool) : (s.setIe v).reg q = s.reg q := rfl
@[simp] theorem State.reg_setIq (q : Reg) (v : List Word) : (s.setIq v).reg q = s.reg q := rfl
@[simp] theorem State.reg_setT (q : Reg) (v : Nat) : (s.setT v).reg q = s.reg q := rfl
@[simp] theorem State.reg_setWq (q : Reg) (v : List WakeRequest) : (s.setWq v).reg q = s.reg q := rfl
@[simp] theorem State.reg_setInitPending (q : Reg) (v : Bool) : (s.setInitPending v).reg q = s.reg q := rfl
@[simp] theorem State.reg_setFlushing (q : Reg) (v : Bool) : (s.setFlushing v).reg q = s.reg q := rfl
@[simp] theorem State.reg_setDeferred (q : Reg) (v : List WakeRequest) : (s.setDeferred v).reg q = s.reg q := rfl
@[simp] theorem State.reg_setCycles (q : Reg) (v : Nat) : (s.setCycles v).reg q = s.reg q := rfl
@[simp] theorem State.reg_setCalls (q : Reg) (v : List DeviceCall) : (s.setCalls v).reg q = s.reg q := rfl
@[simp] theorem State.reg_setDevState (q : Reg) (v : Nat) : (s.setDevState v).reg q = s.reg q := rfl
@[simp] theorem State.reg_store (q : Reg) (a v : Word) : (s.store a v).reg q = s.reg q := rfl
@[simp] theorem State.reg_push (q : Reg) (v : Word) : (s.push v).reg q = s.reg q := rfl

end Sys2Proof.Machine
end

