-- ==== Sys2Proof/Laws/Ops.lean ====
section
/-! SUPPORT. One lemma per shared operation of `Machine/Ops.lean`: everything it can do. -/

namespace Sys2Proof.Machine

/-! ### `Interrupt(m)` -/

/-- R241, everything `Interrupt(m)` can do. -/
theorem requestInterrupt_cases (m : Word) (s : State) :
    (s.cpuState ≠ .running ∧ requestInterrupt m s = s) ∨
    (s.cpuState = .running ∧ Config.iqCap ≤ s.iq.length ∧
      requestInterrupt m s = s.setCpuState .errorInterruptQueueFilled) ∨
    (s.cpuState = .running ∧ s.iq.length < Config.iqCap ∧ requestInterrupt m s = s.setIq (s.iq ++ [m])) := by
  unfold requestInterrupt
  cases h : s.cpuState with
  | running =>
    by_cases hf : Config.iqCap ≤ s.iq.length
    · exact .inr (.inl ⟨rfl, hf, by simp [hf]⟩)
    · exact .inr (.inr ⟨rfl, by omega, by simp [hf]⟩)
  | errorIllegalInstruction => exact .inl ⟨by simp, rfl⟩
  | errorInterruptQueueFilled => exact .inl ⟨by simp, rfl⟩

/-! ### Taking an interrupt -/

section
variable (m : Word) (s : State)
@[simp] theorem takeInterrupt_pc : (takeInterrupt m s).pc = s.ia := rfl
@[simp] theorem takeInterrupt_sp : (takeInterrupt m s).sp = s.sp - 1#16 - 1#16 := rfl
@[simp] theorem takeInterrupt_ex : (takeInterrupt m s).ex = s.ex := rfl
@[simp] theorem takeInterrupt_ia : (takeInterrupt m s).ia = s.ia := rfl
@[simp] theorem takeInterrupt_ie : (takeInterrupt m s).ie = false := rfl
@[simp] theorem takeInterrupt_iq : (takeInterrupt m s).iq = s.iq := rfl
@[simp] theorem takeInterrupt_t : (takeInterrupt m s).t = s.t := rfl
@[simp] theorem takeInterrupt_wq : (takeInterrupt m s).wq = s.wq := rfl
@[simp] theorem takeInterrupt_cpuState : (takeInterrupt m s).cpuState = s.cpuState := rfl
@[simp] theorem takeInterrupt_initPending : (takeInterrupt m s).initPending = s.initPending := rfl
@[simp] theorem takeInterrupt_flushing : (takeInterrupt m s).flushing = s.flushing := rfl
@[simp] theorem takeInterrupt_deferred : (takeInterrupt m s).deferred = s.deferred := rfl
@[simp] theorem takeInterrupt_cycles : (takeInterrupt m s).cycles = s.cycles := rfl
@[simp] theorem takeInterrupt_calls : (takeInterrupt m s).calls = s.calls := rfl
@[simp] theorem takeInterrupt_devState : (takeInterrupt m s).devState = s.devState := rfl
@[simp] theorem takeInterrupt_regs : (takeInterrupt m s).regs = s.regs.set .a m := rfl
@[simp] theorem takeInterrupt_mem :
    (takeInterrupt m s).mem = (s.mem.write (s.sp - 1#16) s.pc).write (s.sp - 1#16 - 1#16) (s.reg .a) := rfl
end

/-- R244, everything the delivery loop can do. -/
theorem deliverFrom_cases (q : List Word) (s : State) :
    (s.ie = false ∧ deliverFrom q s = s.setIq q) ∨
    (s.ie = true ∧ s.ia = 0#16 ∧ deliverFrom q s = s.setIq []) ∨
    (s.ie = true ∧ s.ia ≠ 0#16 ∧ q = [] ∧ deliverFrom q s = s.setIq []) ∨
    (∃ m rest, s.ie = true ∧ s.ia ≠ 0#16 ∧ q = m :: rest ∧ deliverFrom q s = takeInterrupt m (s.setIq rest)) := by
  cases hie : s.ie with
  | false =>
    refine .inl ⟨rfl, ?_⟩
    cases q with
    | nil => rfl
    | cons m rest => simp [deliverFrom, hie]
  | true =>
    by_cases hia : s.ia = 0#16
    · refine .inr (.inl ⟨rfl, hia, ?_⟩)
      induction q with
      | nil => rfl
      | cons m rest ih => simpa [deliverFrom, hie, hia] using ih
    · cases q with
      | nil => exact .inr (.inr (.inl ⟨rfl, hia, rfl, rfl⟩))
      | cons m rest => exact .inr (.inr (.inr ⟨m, rest, rfl, hia, rfl, by simp [deliverFrom, hie, hia]⟩))

/-- R244 on the whole queue. -/
theorem deliverInterrupts_cases (s : State) :
    (s.ie = false ∧ deliverInterrupts s = s) ∨
    (s.ie = true ∧ s.ia = 0#16 ∧ deliverInterrupts s = s.setIq []) ∨
    (s.ie = true ∧ s.ia ≠ 0#16 ∧ s.iq = [] ∧ deliverInterrupts s = s) ∨
    (∃ m rest, s.ie = true ∧ s.ia ≠ 0#16 ∧ s.iq = m :: rest ∧
      deliverInterrupts s = takeInterrupt m (s.setIq rest)) := by
  rcases deliverFrom_cases s.iq s with ⟨h, e⟩ | h | ⟨h1, h2, h3, e⟩ | ⟨m, rest, h1, h2, h3, e⟩
  · exact .inl ⟨h, e⟩
  · exact .inr (.inl h)
  · exact .inr (.inr (.inl ⟨h1, h2, h3, by unfold deliverInterrupts; rw [e, ← h3]; rfl⟩))
  · exact .inr (.inr (.inr ⟨m, rest, h1, h2, h3, e⟩))

/-- R244: nothing is delivered when IE is off or nothing is queued. -/
theorem deliverInterrupts_idle {s : State} (h : s.iq = [] ∨ s.ie = false) : deliverInterrupts s = s := by
  rcases h with h | h
  · simp only [deliverInterrupts, h, deliverFrom]
    cases s; cases h; rfl
  · rcases deliverInterrupts_cases s with ⟨_, e⟩ | ⟨h', -⟩ | ⟨h', -⟩ | ⟨_, _, h', -⟩
    · exact e
    all_goals (rw [h] at h'; cases h')

/-! ### Returning from an interrupt -/

section
variable (s : State)
@[simp] theorem returnFromInterrupt_regs : (returnFromInterrupt s).regs = s.regs.set .a (s.mem.read s.sp) := rfl
@[simp] theorem returnFromInterrupt_pc : (returnFromInterrupt s).pc = s.mem.read (s.sp + 1#16) := rfl
@[simp] theorem returnFromInterrupt_sp : (returnFromInterrupt s).sp = s.sp + 1#16 + 1#16 := rfl
@[simp] theorem returnFromInterrupt_ie : (returnFromInterrupt s).ie = true := rfl
@[simp] theorem returnFromInterrupt_mem : (returnFromInterrupt s).mem = s.mem := rfl
@[simp] theorem returnFromInterrupt_ex : (returnFromInterrupt s).ex = s.ex := rfl
@[simp] theorem returnFromInterrupt_ia : (returnFromInterrupt s).ia = s.ia := rfl
@[simp] theorem returnFromInterrupt_iq : (returnFromInterrupt s).iq = s.iq := rfl
@[simp] theorem returnFromInterrupt_t : (returnFromInterrupt s).t = s.t := rfl
@[simp] theorem returnFromInterrupt_wq : (returnFromInterrupt s).wq = s.wq := rfl
@[simp] theorem returnFromInterrupt_cpuState : (returnFromInterrupt s).cpuState = s.cpuState := rfl
@[simp] theorem returnFromInterrupt_initPending : (returnFromInterrupt s).initPending = s.initPending := rfl
@[simp] theorem returnFromInterrupt_flushing : (returnFromInterrupt s).flushing = s.flushing := rfl
@[simp] theorem returnFromInterrupt_deferred : (returnFromInterrupt s).deferred = s.deferred := rfl
@[simp] theorem returnFromInterrupt_cycles : (returnFromInterrupt s).cycles = s.cycles := rfl
@[simp] theorem returnFromInterrupt_calls : (returnFromInterrupt s).calls = s.calls := rfl
@[simp] theorem returnFromInterrupt_devState : (returnFromInterrupt s).devState = s.devState := rfl
end

/-! ### The wake list -/

/-- R252: a request is inserted and nothing else changes. -/
theorem insertWake_perm (q : WakeRequest) (l : List WakeRequest) : (insertWake q l).Perm (q :: l) := by
  induction l with
  | nil => exact List.Perm.refl _
  | cons p l ih =>
    unfold insertWake
    split
    · exact (List.Perm.cons p ih).trans (List.Perm.swap q p l)
    · exact List.Perm.refl _

/-- WQ in ascending order of `endT` (R37). -/
abbrev WakeSorted (l : List WakeRequest) : Prop := l.Pairwise fun p q => p.endT ≤ q.endT

/-- R252: insertion keeps the order. -/
theorem insertWake_sorted (q : WakeRequest) {l : List WakeRequest} (h : WakeSorted l) : WakeSorted (insertWake q l) := by
  induction l with
  | nil => exact List.pairwise_singleton _ _
  | cons p l ih =>
    have hp := List.pairwise_cons.1 h
    unfold insertWake
    split
    · next hle =>
      refine List.pairwise_cons.2 ⟨fun r hr => ?_, ih hp.2⟩
      rcases List.mem_cons.1 ((insertWake_perm q l).mem_iff.1 hr) with rfl | hr
      · exact hle
      · exact hp.1 r hr
    · next hlt =>
      refine List.pairwise_cons.2 ⟨fun r hr => ?_, h⟩
      rcases List.mem_cons.1 hr with rfl | hr
      · omega
      · have := hp.1 r hr; omega

/-- Inserting a list of requests one after the other keeps the order. -/
theorem insertWakes_sorted (qs : List WakeRequest) {l : List WakeRequest} (h : WakeSorted l) :
    WakeSorted (qs.foldl (fun wq q => insertWake q wq) l) := by
  induction qs generalizing l with
  | nil => exact h
  | cons q qs ih => exact ih (insertWake_sorted q h)

/-- R251, everything `ScheduleWake` can do. -/
theorem scheduleWake_cases (dev cycles : Nat) (ctx : Int) (s : State) :
    (s.flushing = true ∧ scheduleWake dev cycles ctx s = s.setDeferred (s.deferred ++ [⟨dev, ctx, s.t, s.t + cycles⟩])) ∨
    (s.flushing = false ∧ scheduleWake dev cycles ctx s = s.setWq (insertWake ⟨dev, ctx, s.t, s.t + cycles⟩ s.wq)) := by
  cases h : s.flushing
  · exact .inr ⟨rfl, by simp [scheduleWake, h]⟩
  · exact .inl ⟨rfl, by simp [scheduleWake, h]⟩

end Sys2Proof.Machine
end

