-- ==== Sys2Proof/Laws/Operands.lean ====
section
/-! SUPPORT. One lemma per shared operation of `Machine/Operands.lean`: everything it can do. -/

namespace Sys2Proof.Machine

theorem SameControl.refl (s : State) : SameControl s s :=
  ⟨rfl, rfl, rfl, rfl, rfl, rfl, rfl, rfl, rfl, rfl, rfl, rfl⟩

theorem SameControl.trans {s t u : State} (h : SameControl s t) (g : SameControl t u) : SameControl s u :=
  ⟨g.ia.trans h.ia, g.cpuState.trans h.cpuState, g.ie.trans h.ie, g.iq.trans h.iq, g.time.trans h.time, g.wq.trans h.wq,
    g.initPending.trans h.initPending, g.flushing.trans h.flushing, g.deferred.trans h.deferred, g.cycles.trans h.cycles,
    g.calls.trans h.calls, g.devState.trans h.devState⟩

/-- R111: resolving `a` changes SP only. -/
theorem resolveA_state (a : OperandA) (s : State) : (resolveA a s).2 = s.setSp (spAfterA a s.sp) := by
  cases a <;> rfl

/-- R112: resolving `b` changes SP only. -/
theorem resolveB_state (b : OperandB) (s : State) : (resolveB b s).2 = s.setSp (spAfterB b s.sp) := by
  cases b <;> rfl

/-- R114: resolving both operands changes SP only, `a` first. -/
theorem resolveBoth_state (b : OperandB) (a : OperandA) (s : State) :
    (resolveBoth b a s).state = s.setSp (spAfterB b (spAfterA a s.sp)) := by
  simp only [resolveBoth, resolveB_state, resolveA_state]
  rfl

theorem sameControl_setSp (s : State) (v : Word) : SameControl s (s.setSp v) :=
  ⟨rfl, rfl, rfl, rfl, rfl, rfl, rfl, rfl, rfl, rfl, rfl, rfl⟩

theorem sameControl_setReg (s : State) (r : Reg) (v : Word) : SameControl s (s.setReg r v) :=
  ⟨rfl, rfl, rfl, rfl, rfl, rfl, rfl, rfl, rfl, rfl, rfl, rfl⟩

theorem sameControl_setEx (s : State) (v : Word) : SameControl s (s.setEx v) :=
  ⟨rfl, rfl, rfl, rfl, rfl, rfl, rfl, rfl, rfl, rfl, rfl, rfl⟩

/-- R119: a write touches no control state. -/
theorem writeRef_sameControl (s : State) (r : Referent) (v : Word) : SameControl s (s.writeRef r v) := by
  cases r <;> exact ⟨rfl, rfl, rfl, rfl, rfl, rfl, rfl, rfl, rfl, rfl, rfl, rfl⟩

/-- R119: a write keeps the canonical form of memory. -/
theorem writeRef_wf {s : State} (h : s.mem.wf = true) (r : Referent) (v : Word) : (s.writeRef r v).mem.wf = true := by
  cases r with
  | memAt addr => exact Memory.write_wf h addr v
  | reg r => exact h
  | sp => exact h
  | pc => exact h
  | ex => exact h
  | lit w => exact h

/-- R119: a register other than the referent keeps its value. -/
theorem writeRef_reg (s : State) {r : Referent} (v : Word) {g : Reg} (h : r ≠ .reg g) : (s.writeRef r v).reg g = s.reg g := by
  cases r with
  | reg q =>
    have : g ≠ q := fun e => h (by rw [e])
    exact State.reg_setReg_other s q g v this
  | memAt addr => rfl
  | sp => rfl
  | pc => rfl
  | ex => rfl
  | lit w => rfl

theorem writeRef_sp (s : State) {r : Referent} (v : Word) (h : r ≠ .sp) : (s.writeRef r v).sp = s.sp := by
  cases r <;> first | rfl | exact absurd rfl h

theorem writeRef_pc (s : State) {r : Referent} (v : Word) (h : r ≠ .pc) : (s.writeRef r v).pc = s.pc := by
  cases r <;> first | rfl | exact absurd rfl h

theorem writeRef_ex (s : State) {r : Referent} (v : Word) (h : r ≠ .ex) : (s.writeRef r v).ex = s.ex := by
  cases r <;> first | rfl | exact absurd rfl h

/-- R119: a word other than the referent keeps its value. -/
theorem writeRef_read (s : State) {r : Referent} (v : Word) {x : Word} (h : r ≠ .memAt x) :
    (s.writeRef r v).mem.read x = s.mem.read x := by
  cases r with
  | memAt addr =>
    have : x ≠ addr := fun e => h (by rw [e])
    exact Memory.read_write_other s.mem this v
  | reg q => rfl
  | sp => rfl
  | pc => rfl
  | ex => rfl
  | lit w => rfl

/-- R118, R119: what was written is read back, unless the referent is a literal. -/
theorem readRef_writeRef {s : State} (hm : s.mem.wf = true) {r : Referent} (v : Word) (h : ∀ w, r ≠ .lit w) :
    (s.writeRef r v).readRef r = v := by
  cases r with
  | reg q => exact State.reg_setReg_same s q v
  | memAt addr => exact Memory.read_write_same hm addr v
  | sp => rfl
  | pc => rfl
  | ex => rfl
  | lit w => exact absurd rfl (h w)

/-- R178, everything one round of the skip chain can do. -/
theorem skipChain_succ (fuel : Nat) (s : State) :
    (∃ e, decodeWord (s.mem.read s.pc) = .error e ∧ skipChain (fuel + 1) s = .next (raiseIllegalInstruction s)) ∨
    (∃ i, decodeWord (s.mem.read s.pc) = .ok i ∧ i.isConditional = true ∧
      skipChain (fuel + 1) s =
        skipChain fuel ((s.setPc (s.pc + BitVec.ofNat 16 i.words)).setCycles (s.cycles + 1))) ∨
    (∃ i, decodeWord (s.mem.read s.pc) = .ok i ∧ i.isConditional = false ∧
      skipChain (fuel + 1) s = .next ((s.setPc (s.pc + BitVec.ofNat 16 i.words)).setCycles (s.cycles + 1))) := by
  cases h : decodeWord (s.mem.read s.pc) with
  | error e => exact .inl ⟨e, rfl, by simp only [skipChain, h]⟩
  | ok i =>
    cases hc : i.isConditional with
    | true => exact .inr (.inl ⟨i, rfl, hc, by simp only [skipChain, h, hc, if_true]⟩)
    | false => exact .inr (.inr ⟨i, rfl, hc, by simp [skipChain, h, hc]⟩)

/-- R178, everything the skip chain can do to the state: PC and the cycle count, or the illegal-instruction state. -/
theorem skipChain_next {fuel : Nat} {s t : State} (h : skipChain fuel s = .next t) :
    (∃ pc cycles, t = (s.setPc pc).setCycles cycles) ∨
    (∃ pc, t = ((s.setPc pc).setCycles 0).setCpuState .errorIllegalInstruction) := by
  induction fuel generalizing s with
  | zero => cases h
  | succ fuel ih =>
    rcases skipChain_succ fuel s with ⟨e, -, he⟩ | ⟨i, -, -, he⟩ | ⟨i, -, -, he⟩
    · rw [he] at h
      cases h
      exact .inr ⟨s.pc, rfl⟩
    · rw [he] at h
      rcases ih h with ⟨pc, c, rfl⟩ | ⟨pc, rfl⟩
      · exact .inl ⟨pc, c, rfl⟩
      · exact .inr ⟨pc, rfl⟩
    · rw [he] at h
      cases h
      exact .inl ⟨_, _, rfl⟩

/-- A conditional refuses nothing. -/
theorem skipChain_not_refused (fuel : Nat) (s : State) (r : Refusal) : skipChain fuel s ≠ .refused r := by
  induction fuel generalizing s with
  | zero => intro h; cases h
  | succ fuel ih =>
    rcases skipChain_succ fuel s with ⟨e, -, he⟩ | ⟨i, -, -, he⟩ | ⟨i, -, -, he⟩
    · rw [he]; intro h; cases h
    · rw [he]; exact ih _
    · rw [he]; intro h; cases h

/-- The shape of a special operator that reads `a`: its value, and the state with SP moved. -/
theorem withValueA_eq (a : OperandA) (s : State) (k : Word → State → State) :
    withValueA a s k = k (valueA a s) (s.setSp (spAfterA a s.sp)) := by
  simp only [withValueA, valueA, resolveA_state]

/-- The shape of a special operator that writes `a`. -/
theorem writeA_eq (a : OperandA) (s : State) (v : Word) :
    writeA a s v = (s.setSp (spAfterA a s.sp)).writeRef (resolveA a s).1 v := by
  simp only [writeA, resolveA_state]

/-- R178, everything a conditional can do before its skip chain. -/
theorem executeConditional_cases (c : Word → Word → Bool) (b : OperandB) (a : OperandA) (s : State) :
    (c (resolveBoth b a s).vb (resolveBoth b a s).va = true ∧
      executeConditional c b a s = .next (s.setSp (spAfterB b (spAfterA a s.sp)))) ∨
    (c (resolveBoth b a s).vb (resolveBoth b a s).va = false ∧
      executeConditional c b a s = skipChain skipFuel (s.setSp (spAfterB b (spAfterA a s.sp)))) := by
  cases h : c (resolveBoth b a s).vb (resolveBoth b a s).va
  · exact .inr ⟨rfl, by simp [executeConditional, h, resolveBoth_state]⟩
  · exact .inl ⟨rfl, by simp [executeConditional, h, resolveBoth_state]⟩

end Sys2Proof.Machine
end

