-- ==== Sys2Proof/Laws/PerInstr.lean ====
section
/-! SUPPORT. Statements made for every instruction, one lemma per constructor. -/

namespace Sys2Proof.Laws.EncodeLength

/-- R70, R75: an instruction's encoding has as many words as its length says, 1 to 3. -/
def Statement (i : Instr) : Prop :=
  (encode i).length = i.words ∧ 1 ≤ i.words ∧ i.words ≤ 3

theorem mode_length (m : Mode) : m.nextWord.length = m.extra ∧ m.extra ≤ 1 := by
  cases m <;> simp [Mode.nextWord, Mode.extra]

theorem operandA_length (a : OperandA) : a.nextWord.length = a.extra ∧ a.extra ≤ 1 := by
  cases a with
  | mode m => exact mode_length m
  | pop => simp [OperandA.nextWord, OperandA.extra]
  | lit v => simp [OperandA.nextWord, OperandA.extra]

theorem operandB_length (b : OperandB) : b.nextWord.length = b.extra ∧ b.extra ≤ 1 := by
  cases b with
  | mode m => exact mode_length m
  | push => simp [OperandB.nextWord, OperandB.extra]

theorem of_normal {i : Instr} {o : BitVec 5} {b : OperandB} {a : OperandA} (he : encode i = encodeNormal o b a)
    (ha : i.operandA = a) (hb : i.operandB = some b) : Statement i := by
  have h1 := operandA_length a
  have h2 := operandB_length b
  simp only [Statement, he, encodeNormal, Instr.words, ha, hb, List.length_cons, List.length_append]
  omega

theorem of_special {i : Instr} {so : BitVec 5} {a : OperandA} (he : encode i = encodeSpecial so a)
    (ha : i.operandA = a) (hb : i.operandB = none) : Statement i := by
  have h1 := operandA_length a
  simp only [Statement, he, encodeSpecial, Instr.words, ha, hb, List.length_cons]
  omega

theorem set (b : OperandB) (a : OperandA) : Statement (.set b a) := of_normal rfl rfl rfl
theorem add (b : OperandB) (a : OperandA) : Statement (.add b a) := of_normal rfl rfl rfl
theorem sub (b : OperandB) (a : OperandA) : Statement (.sub b a) := of_normal rfl rfl rfl
theorem mul (b : OperandB) (a : OperandA) : Statement (.mul b a) := of_normal rfl rfl rfl
theorem mli (b : OperandB) (a : OperandA) : Statement (.mli b a) := of_normal rfl rfl rfl
theorem div (b : OperandB) (a : OperandA) : Statement (.div b a) := of_normal rfl rfl rfl
theorem dvi (b : OperandB) (a : OperandA) : Statement (.dvi b a) := of_normal rfl rfl rfl
theorem mod (b : OperandB) (a : OperandA) : Statement (.mod b a) := of_normal rfl rfl rfl
theorem mdi (b : OperandB) (a : OperandA) : Statement (.mdi b a) := of_normal rfl rfl rfl
theorem and (b : OperandB) (a : OperandA) : Statement (.and b a) := of_normal rfl rfl rfl
theorem bor (b : OperandB) (a : OperandA) : Statement (.bor b a) := of_normal rfl rfl rfl
theorem xor (b : OperandB) (a : OperandA) : Statement (.xor b a) := of_normal rfl rfl rfl
theorem shr (b : OperandB) (a : OperandA) : Statement (.shr b a) := of_normal rfl rfl rfl
theorem asr (b : OperandB) (a : OperandA) : Statement (.asr b a) := of_normal rfl rfl rfl
theorem shl (b : OperandB) (a : OperandA) : Statement (.shl b a) := of_normal rfl rfl rfl
theorem ifb (b : OperandB) (a : OperandA) : Statement (.ifb b a) := of_normal rfl rfl rfl
theorem ifc (b : OperandB) (a : OperandA) : Statement (.ifc b a) := of_normal rfl rfl rfl
theorem ife (b : OperandB) (a : OperandA) : Statement (.ife b a) := of_normal rfl rfl rfl
theorem ifn (b : OperandB) (a : OperandA) : Statement (.ifn b a) := of_normal rfl rfl rfl
theorem ifg (b : OperandB) (a : OperandA) : Statement (.ifg b a) := of_normal rfl rfl rfl
theorem ifa (b : OperandB) (a : OperandA) : Statement (.ifa b a) := of_normal rfl rfl rfl
theorem ifl (b : OperandB) (a : OperandA) : Statement (.ifl b a) := of_normal rfl rfl rfl
theorem ifu (b : OperandB) (a : OperandA) : Statement (.ifu b a) := of_normal rfl rfl rfl
theorem adx (b : OperandB) (a : OperandA) : Statement (.adx b a) := of_normal rfl rfl rfl
theorem sbx (b : OperandB) (a : OperandA) : Statement (.sbx b a) := of_normal rfl rfl rfl
theorem sti (b : OperandB) (a : OperandA) : Statement (.sti b a) := of_normal rfl rfl rfl
theorem std (b : OperandB) (a : OperandA) : Statement (.std b a) := of_normal rfl rfl rfl
theorem jsr (a : OperandA) : Statement (.jsr a) := of_special rfl rfl rfl
theorem int (a : OperandA) : Statement (.int a) := of_special rfl rfl rfl
theorem iag (a : OperandA) : Statement (.iag a) := of_special rfl rfl rfl
theorem ias (a : OperandA) : Statement (.ias a) := of_special rfl rfl rfl
theorem rfi (a : OperandA) : Statement (.rfi a) := of_special rfl rfl rfl
theorem iaq (a : OperandA) : Statement (.iaq a) := of_special rfl rfl rfl
theorem hwn (a : OperandA) : Statement (.hwn a) := of_special rfl rfl rfl
theorem hwq (a : OperandA) : Statement (.hwq a) := of_special rfl rfl rfl
theorem hwi (a : OperandA) : Statement (.hwi a) := of_special rfl rfl rfl

end Sys2Proof.Laws.EncodeLength
end

