-- ==== Sys2Proof/Laws/Surface.lean ====
section
/-! SUPPORT. One lemma per shared operation of `Machine/Surface.lean`: everything the surroundings can do. -/

namespace Sys2Proof.Machine

/-- What no operation of R258 touches (D29), and the model's own fields. -/
structure SameInside (s u : State) : Prop where
  ie : u.ie = s.ie
  time : u.t = s.t
  initPending : u.initPending = s.initPending
  flushing : u.flushing = s.flushing
  cycles : u.cycles = s.cycles
  calls : u.calls = s.calls
  devState : u.devState = s.devState

theorem SameInside.refl (s : State) : SameInside s s := ⟨rfl, rfl, rfl, rfl, rfl, rfl, rfl⟩

theorem SameInside.trans {s t u : State} (h : SameInside s t) (g : SameInside t u) : SameInside s u :=
  ⟨g.ie.trans h.ie, g.time.trans h.time, g.initPending.trans h.initPending, g.flushing.trans h.flushing,
    g.cycles.trans h.cycles, g.calls.trans h.calls, g.devState.trans h.devState⟩

theorem requestInterrupt_sameInside (m : Word) (s : State) : SameInside s (requestInterrupt m s) := by
  rcases requestInterrupt_cases m s with ⟨-, h⟩ | ⟨-, -, h⟩ | ⟨-, -, h⟩ <;> rw [h] <;>
    exact ⟨rfl, rfl, rfl, rfl, rfl, rfl, rfl⟩

theorem scheduleWake_sameInside (dev cycles : Nat) (ctx : Int) (s : State) :
    SameInside s (scheduleWake dev cycles ctx s) := by
  rcases scheduleWake_cases dev cycles ctx s with ⟨-, h⟩ | ⟨-, h⟩ <;> rw [h] <;> exact ⟨rfl, rfl, rfl, rfl, rfl, rfl, rfl⟩

theorem setNamed_sameInside (s : State) (r : RegName) (v : Word) : SameInside s (s.setNamed r v) := by
  cases r <;> exact ⟨rfl, rfl, rfl, rfl, rfl, rfl, rfl⟩

/-- D29: an operation of R258 leaves IE, T and the model's own fields. -/
theorem applyAction_sameInside (act : Action) (s : State) : SameInside s (applyAction act s) := by
  cases act with
  | setRegister r v => exact setNamed_sameInside s r v
  | writeMemory a v => exact ⟨rfl, rfl, rfl, rfl, rfl, rfl, rfl⟩
  | interrupt m => exact requestInterrupt_sameInside m s
  | scheduleWake d c x => exact scheduleWake_sameInside d c x s

theorem applyActions_cons (act : Action) (acts : List Action) (s : State) :
    applyActions (act :: acts) s = applyActions acts (applyAction act s) := rfl

theorem applyActions_sameInside (acts : List Action) (s : State) : SameInside s (applyActions acts s) := by
  induction acts generalizing s with
  | nil => exact SameInside.refl s
  | cons act acts ih => exact (applyAction_sameInside act s).trans (ih _)

/-- The part of the invariant that holds inside a flush too. -/
structure InvInside (s : State) : Prop where
  mem : s.mem.wf = true
  queue : s.iq.length ≤ Config.iqCap
  wakes : WakeSorted s.wq

theorem requestInterrupt_inv {s : State} (h : InvInside s) (m : Word) : InvInside (requestInterrupt m s) := by
  rcases requestInterrupt_cases m s with ⟨-, e⟩ | ⟨-, -, e⟩ | ⟨-, hl, e⟩ <;> rw [e]
  · exact h
  · exact ⟨h.mem, h.queue, h.wakes⟩
  · exact ⟨h.mem, by simpa using hl, h.wakes⟩

/-- R258: an operation keeps the invariant. -/
theorem applyAction_inv {s : State} (h : InvInside s) (act : Action) : InvInside (applyAction act s) := by
  cases act with
  | setRegister r v => cases r <;> exact ⟨h.mem, h.queue, h.wakes⟩
  | writeMemory a v => exact ⟨Memory.write_wf h.mem a v, h.queue, h.wakes⟩
  | interrupt m => exact requestInterrupt_inv h m
  | scheduleWake d c x =>
    rcases scheduleWake_cases d c x s with ⟨-, e⟩ | ⟨-, e⟩ <;> simp only [applyAction, e]
    · exact ⟨h.mem, h.queue, h.wakes⟩
    · exact ⟨h.mem, h.queue, insertWake_sorted _ h.wakes⟩

theorem applyActions_inv {s : State} (h : InvInside s) (acts : List Action) : InvInside (applyActions acts s) := by
  induction acts generalizing s with
  | nil => exact h
  | cons act acts ih => exact ih (applyAction_inv h act)

/-- R234: a frozen block stays as it is frozen, whatever its surroundings do. -/
theorem applyActions_frozen {s : State} (h : s.cpuState ≠ .running) (acts : List Action) :
    (applyActions acts s).cpuState = s.cpuState := by
  induction acts generalizing s with
  | nil => rfl
  | cons act acts ih =>
    have e : (applyAction act s).cpuState = s.cpuState := by
      cases act with
      | setRegister r v => cases r <;> rfl
      | writeMemory a v => rfl
      | interrupt m =>
        rcases requestInterrupt_cases m s with ⟨-, e⟩ | ⟨hr, -⟩ | ⟨hr, -⟩
        · simp only [applyAction, e]
        · exact absurd hr h
        · exact absurd hr h
      | scheduleWake d c x => rcases scheduleWake_cases d c x s with ⟨-, e⟩ | ⟨-, e⟩ <;> simp only [applyAction, e] <;> rfl
    exact (ih (by rw [e]; exact h)).trans e

/-- The surroundings never raise `IllegalInstruction`. -/
theorem applyActions_not_illegal {s : State} (h : s.cpuState ≠ .errorIllegalInstruction) (acts : List Action) :
    (applyActions acts s).cpuState ≠ .errorIllegalInstruction := by
  induction acts generalizing s with
  | nil => exact h
  | cons act acts ih =>
    refine ih ?_
    cases act with
    | setRegister r v => cases r <;> exact h
    | writeMemory a v => exact h
    | interrupt m =>
      rcases requestInterrupt_cases m s with ⟨-, e⟩ | ⟨-, -, e⟩ | ⟨-, -, e⟩ <;> simp only [applyAction, e]
      · exact h
      · simp
      · exact h
    | scheduleWake d c x =>
      rcases scheduleWake_cases d c x s with ⟨-, e⟩ | ⟨-, e⟩ <;> simp only [applyAction, e] <;> exact h

/-- R254: while a flush runs, no operation of the surroundings touches WQ. -/
theorem applyActions_wq_flushing {s : State} (h : s.flushing = true) (acts : List Action) :
    (applyActions acts s).wq = s.wq := by
  induction acts generalizing s with
  | nil => rfl
  | cons act acts ih =>
    have e : (applyAction act s).wq = s.wq := by
      cases act with
      | setRegister r v => cases r <;> rfl
      | writeMemory a v => rfl
      | interrupt m =>
        rcases requestInterrupt_cases m s with ⟨-, e⟩ | ⟨-, -, e⟩ | ⟨-, -, e⟩ <;> simp only [applyAction, e] <;> rfl
      | scheduleWake d c x =>
        rcases scheduleWake_cases d c x s with ⟨-, e⟩ | ⟨hf, -⟩
        · simp only [applyAction, e]; rfl
        · rw [h] at hf; cases hf
    exact (ih ((applyAction_sameInside act s).flushing.trans h)).trans e

/-- R254: while a flush runs, what an operation does does not depend on WQ. -/
theorem applyAction_setWq {s : State} (h : s.flushing = true) (act : Action) (w : List WakeRequest) :
    applyAction act (s.setWq w) = (applyAction act s).setWq w := by
  cases act with
  | setRegister r v => cases r <;> rfl
  | writeMemory a v => rfl
  | interrupt m =>
    cases hc : s.cpuState <;> by_cases hl : Config.iqCap ≤ s.iq.length <;>
      simp [applyAction, requestInterrupt, State.setWq, State.setIq, State.setCpuState, hc, hl]
  | scheduleWake d c x => simp [applyAction, scheduleWake, State.setWq, State.setDeferred, h]

/-- R254: so the loop may take its requests off WQ before it calls the devices. -/
theorem applyActions_setWq {s : State} (h : s.flushing = true) (acts : List Action) (w : List WakeRequest) :
    applyActions acts (s.setWq w) = (applyActions acts s).setWq w := by
  induction acts generalizing s with
  | nil => rfl
  | cons act acts ih =>
    rw [applyActions_cons, applyAction_setWq h, ih ((applyAction_sameInside act s).flushing.trans h), applyActions_cons]

/-- R251, R254: while a flush runs, the requests of the surroundings are deferred, in order. -/
theorem applyActions_deferred_flushing {s : State} (h : s.flushing = true) (acts : List Action) :
    (applyActions acts s).deferred = s.deferred ++ requestsOf s.t acts := by
  induction acts generalizing s with
  | nil => simp [applyActions, requestsOf]
  | cons act acts ih =>
    have k := applyAction_sameInside act s
    rw [applyActions_cons, ih (k.flushing.trans h), k.time]
    cases act with
    | setRegister r v => cases r <;> rfl
    | writeMemory a v => rfl
    | interrupt m =>
      rcases requestInterrupt_cases m s with ⟨-, e⟩ | ⟨-, -, e⟩ | ⟨-, -, e⟩ <;> simp only [applyAction, e] <;> rfl
    | scheduleWake d c x =>
      rcases scheduleWake_cases d c x s with ⟨-, e⟩ | ⟨hf, -⟩
      · simp [applyAction, e, requestsOf]
      · rw [h] at hf; cases hf

/-- R254: outside a flush, no operation of the surroundings defers a request. -/
theorem applyActions_deferred {s : State} (h : s.flushing = false) (acts : List Action) :
    (applyActions acts s).deferred = s.deferred := by
  induction acts generalizing s with
  | nil => rfl
  | cons act acts ih =>
    have e : (applyAction act s).deferred = s.deferred := by
      cases act with
      | setRegister r v => cases r <;> rfl
      | writeMemory a v => rfl
      | interrupt m =>
        rcases requestInterrupt_cases m s with ⟨-, e⟩ | ⟨-, -, e⟩ | ⟨-, -, e⟩ <;> simp only [applyAction, e] <;> rfl
      | scheduleWake d c x =>
        rcases scheduleWake_cases d c x s with ⟨hf, -⟩ | ⟨-, e⟩
        · rw [h] at hf; cases hf
        · simp only [applyAction, e]; rfl
    exact (ih ((applyAction_sameInside act s).flushing.trans h)).trans e

section
variable (react : Nat → DeviceCall → View → Reaction) (call : DeviceCall) (s : State)

/-- The state in which a called device begins to act. -/
def callStart : State :=
  (s.setDevState (react s.devState call s.view).devState).setCalls (s.calls ++ [call])

theorem callDevice_extra : (callDevice react call s).1 = (react s.devState call s.view).extra := rfl

/-- R256, R257, everything a callback can do: the device's operations, from the state at the call. -/
theorem callDevice_state : (callDevice react call s).2 =
    applyActions (react s.devState call s.view).actions (callStart react call s) := rfl

theorem callDevice_sameInside : SameInside (callStart react call s) (callDevice react call s).2 :=
  applyActions_sameInside _ _

theorem callDevice_time : (callDevice react call s).2.t = s.t := (callDevice_sameInside react call s).time
theorem callDevice_ie : (callDevice react call s).2.ie = s.ie := (callDevice_sameInside react call s).ie
theorem callDevice_cycles : (callDevice react call s).2.cycles = s.cycles := (callDevice_sameInside react call s).cycles
theorem callDevice_flushing : (callDevice react call s).2.flushing = s.flushing :=
  (callDevice_sameInside react call s).flushing
theorem callDevice_calls : (callDevice react call s).2.calls = s.calls ++ [call] := (callDevice_sameInside react call s).calls

theorem callDevice_inv {s : State} (h : InvInside s) : InvInside (callDevice react call s).2 :=
  applyActions_inv (s := callStart react call s) ⟨h.mem, h.queue, h.wakes⟩ _

end

/-- R254, everything the flush loop can do: one lemma for what it keeps. -/
theorem flushLoop_keeps (react : Nat → DeviceCall → View → Reaction) (fuel : Nat) {s : State} (h : InvInside s) :
    InvInside (flushLoop react fuel s) ∧ (flushLoop react fuel s).t = s.t ∧ (flushLoop react fuel s).ie = s.ie ∧
      (flushLoop react fuel s).cycles = s.cycles ∧ (flushLoop react fuel s).flushing = s.flushing := by
  induction fuel generalizing s with
  | zero => exact ⟨h, rfl, rfl, rfl, rfl⟩
  | succ fuel ih =>
    unfold flushLoop
    cases hw : s.wq with
    | nil => exact ⟨h, rfl, rfl, rfl, rfl⟩
    | cons q rest =>
      simp only
      split
      · have hs : InvInside (s.setWq rest) := ⟨h.mem, h.queue, (List.pairwise_cons.1 (hw ▸ h.wakes)).2⟩
        obtain ⟨hi, ht, he, hc, hf⟩ := ih (callDevice_inv react (.wake q.dev (s.t - q.start) q.ctx) hs)
        exact ⟨hi, ht.trans (callDevice_time ..), he.trans (callDevice_ie ..), hc.trans (callDevice_cycles ..),
          hf.trans (callDevice_flushing ..)⟩
      · exact ⟨h, rfl, rfl, rfl, rfl⟩

/-- R254, everything a flush keeps. -/
theorem flushWith_keeps (react : Nat → DeviceCall → View → Reaction) {s : State} (h : InvInside s) :
    InvInside (flushWith react s) ∧ (flushWith react s).t = s.t ∧ (flushWith react s).ie = s.ie ∧
      (flushWith react s).cycles = s.cycles ∧ (flushWith react s).flushing = false ∧
      (flushWith react s).deferred = [] := by
  have hs : InvInside (s.setFlushing true) := ⟨h.mem, h.queue, h.wakes⟩
  obtain ⟨hi, ht, he, hc, -⟩ := flushLoop_keeps react s.wq.length hs
  exact ⟨⟨hi.mem, hi.queue, insertWakes_sorted _ hi.wakes⟩, ht, he, hc, rfl, rfl⟩

/-- R107, R250, everything the end of a step can do. -/
theorem endStep_cases (s : State) :
    (s.cpuState = .errorIllegalInstruction ∧ endStep s = s) ∨
    (s.cpuState ≠ .errorIllegalInstruction ∧ endStep s = flush (advanceT s)) := by
  unfold endStep
  cases h : s.cpuState with
  | running => exact .inr ⟨by simp, rfl⟩
  | errorIllegalInstruction => exact .inl ⟨rfl, rfl⟩
  | errorInterruptQueueFilled => exact .inr ⟨by simp, rfl⟩

end Sys2Proof.Machine
end

