-- ==== Sys2Proof/Tests/Slice0.lean ====
section
/-! SUPPORT. Tests: each instruction word decoded as its encoding table reads, one step on small states with the results of
`spec/95_test_vectors.md`, and a witness for the hypotheses of each obligation. -/

namespace Sys2Proof.Tests

open Sys2Proof.Machine

/-! ### Helpers -/

/-- Register A as `b`. -/
abbrev bA : OperandB := .mode (.reg .a)
/-- Register A as `a`. -/
abbrev aA : OperandA := .mode (.reg .a)
/-- Register B as `a`. -/
abbrev aB : OperandA := .mode (.reg .b)

/-- The reset state with an image at address 0 (R283). -/
def image (ws : List Word) : State := loadImage ws State.reset

/-- The reset state with an image, and values in A, B and EX. -/
def abx (ws : List Word) (a b ex : Word) : State := (((image ws).setReg .a a).setReg .b b).setEx ex

/-- What one reads of the next state of a step, if there is one. -/
def see {α : Type} (o : Host.Outcome State Fault Refusal) (f : State → α) : Option α :=
  match o with
  | .next t => some (f t)
  | .fault _ => none
  | .refused _ => none

/-- Whether there is a next state. -/
def runs (o : Host.Outcome State Fault Refusal) : Bool := (see o fun _ => true).isSome

/-- A, EX, PC and the returned count. -/
def aexpc (t : State) : Word × Word × Word × Nat := (t.reg .a, t.ex, t.pc, t.cycles)

/-! ### WellFormed (R73) -/

theorem test_literal_range : ((OperandA.lit 0xFFFF#16).wellFormed, (OperandA.lit 0#16).wellFormed,
    (OperandA.lit 30#16).wellFormed) = (true, true, true) := by decide
theorem test_ill_formed_literals : ((Instr.set bA (.lit 31#16)).wellFormed, (Instr.jsr (.lit 0xFFFE#16)).wellFormed,
    (Instr.ife .push (.lit 0x8000#16)).wellFormed) = (false, false, false) := by decide

/-! ### Decoding (R71 to R77): each word written out as its fields a, b, o (normal) or a, so, 0 (special) -/

theorem test_decode_move_arith :
    decode [0b0000000000100001#16] = .ok (.set (.mode (.reg .b)) (.mode (.reg .a)), []) ∧
    decode [0b0001110110100010#16] = .ok (.add (.mode (.ind .z)) (.mode (.reg .j)), []) ∧
    decode [0b0010011001100011#16, 5#16] = .ok (.sub (.mode (.indNext .x 5#16)) (.mode (.ind .b)), []) ∧
    decode [0b0101101100000100#16, 9#16] = .ok (.mul (.push) (.mode (.indNext .i 9#16)), []) ∧
    decode [0b0110001100100101#16] = .ok (.mli (.mode .peek) (.pop), []) ∧
    decode [0b0110011101000110#16, 5#16] = .ok (.div (.mode (.pick 5#16)) (.mode .peek), []) ∧
    decode [0b0110101101100111#16, 9#16] = .ok (.dvi (.mode .sp) (.mode (.pick 9#16)), []) ∧
    decode [0b0110111110001000#16] = .ok (.mod (.mode .pc) (.mode .sp), []) ∧
    decode [0b0111001110101001#16] = .ok (.mdi (.mode .ex) (.mode .pc), []) := by decide
theorem test_decode_bitwise_shift :
    decode [0b0111011111001010#16, 5#16] = .ok (.and (.mode (.memNext 5#16)) (.mode .ex), []) ∧
    decode [0b0111101111101011#16, 9#16, 5#16] = .ok (.bor (.mode (.next 5#16)) (.mode (.memNext 9#16)), []) ∧
    decode [0b0111110000101100#16, 9#16] = .ok (.xor (.mode (.reg .b)) (.mode (.next 9#16)), []) ∧
    decode [0b1000000110101101#16] = .ok (.shr (.mode (.ind .z)) (.lit 0xFFFF#16), []) ∧
    decode [0b1000011001101110#16, 5#16] = .ok (.asr (.mode (.indNext .x 5#16)) (.lit 0#16), []) ∧
    decode [0b1111111100001111#16] = .ok (.shl (.push) (.lit 30#16), []) := by decide
theorem test_decode_conditional :
    decode [0b0000001100110000#16] = .ok (.ifb (.mode .peek) (.mode (.reg .a)), []) ∧
    decode [0b0001111101010001#16, 5#16] = .ok (.ifc (.mode (.pick 5#16)) (.mode (.reg .j)), []) ∧
    decode [0b0010011101110010#16] = .ok (.ife (.mode .sp) (.mode (.ind .b)), []) ∧
    decode [0b0101101110010011#16, 9#16] = .ok (.ifn (.mode .pc) (.mode (.indNext .i 9#16)), []) ∧
    decode [0b0110001110110100#16] = .ok (.ifg (.mode .ex) (.pop), []) ∧
    decode [0b0110011111010101#16, 5#16] = .ok (.ifa (.mode (.memNext 5#16)) (.mode .peek), []) ∧
    decode [0b0110101111110110#16, 9#16, 5#16] = .ok (.ifl (.mode (.next 5#16)) (.mode (.pick 9#16)), []) ∧
    decode [0b0110110000110111#16] = .ok (.ifu (.mode (.reg .b)) (.mode .sp), []) := by decide
theorem test_decode_carry_index :
    decode [0b0111000110111010#16] = .ok (.adx (.mode (.ind .z)) (.mode .pc), []) ∧
    decode [0b0111011001111011#16, 5#16] = .ok (.sbx (.mode (.indNext .x 5#16)) (.mode .ex), []) ∧
    decode [0b0111101100011110#16, 9#16] = .ok (.sti (.push) (.mode (.memNext 9#16)), []) ∧
    decode [0b0111111100111111#16, 9#16] = .ok (.std (.mode .peek) (.mode (.next 9#16)), []) := by decide
theorem test_decode_special :
    decode [0b1000000000100000#16] = .ok (.jsr (.lit 0xFFFF#16), []) ∧
    decode [0b1000010100000000#16] = .ok (.int (.lit 0#16), []) ∧
    decode [0b1111110100100000#16] = .ok (.iag (.lit 30#16), []) ∧
    decode [0b0000000101000000#16] = .ok (.ias (.mode (.reg .a)), []) ∧
    decode [0b0001110101100000#16] = .ok (.rfi (.mode (.reg .j)), []) ∧
    decode [0b0010010110000000#16] = .ok (.iaq (.mode (.ind .b)), []) ∧
    decode [0b0101101000000000#16, 9#16] = .ok (.hwn (.mode (.indNext .i 9#16)), []) ∧
    decode [0b0110001000100000#16] = .ok (.hwq (.pop), []) ∧
    decode [0b0110011001000000#16] = .ok (.hwi (.mode .peek), []) := by decide

/-- R78: the edges of the unmapped slots. -/
theorem test_unmapped_slots : ([0x0018#16, 0x0019#16, 0x001C#16, 0x001D#16, 0x0000#16, 0x0040#16, 0x00E0#16, 0x01A0#16, 0x01E0#16,
    0x0260#16, 0x03E0#16, 0xFC00#16].all fun w => (decodeWord w).toOption.isNone) = true := by decide
theorem test_mapped_neighbours : ([0x0017#16, 0x001A#16, 0x001B#16, 0x001E#16, 0x0020#16, 0x0100#16, 0x0180#16, 0x0200#16,
    0x0240#16].all fun w => (decodeWord w).toOption.isSome) = true := by decide
theorem test_decode_table_word : decodeTableWord 16 0x7FC1 = some (.set (.mode (.memNext 0#16)) (.mode (.next 0#16))) ∧
    decodeTableWord 48 0x0002000100007FC1 = some (.set (.mode (.memNext 1#16)) (.mode (.next 0#16))) := by decide
theorem test_with_fetch_word : see (step (State.reset.withFetchWord 16 0x8801)) (fun t => (t.reg .a, t.pc)) =
    some (1#16, 1#16) := by decide

/-! ### One step of each instruction (vectors of `spec/95_test_vectors.md`, by their numbers) -/

theorem test_add_carry : see (step (abx [0x0402#16] 0xFFFF#16 0x0001#16 0x0000#16)) aexpc =
    some (0x0000#16, 0x0001#16, 1#16, 2) := by decide -- V2.1
theorem test_add_no_carry : see (step (abx [0x0402#16] 0x1234#16 0x1111#16 0x7777#16)) aexpc =
    some (0x2345#16, 0x0000#16, 1#16, 2) := by decide -- V2.2
theorem test_sub_borrow : see (step (abx [0x0403#16] 0x0000#16 0x0001#16 0x0000#16)) aexpc =
    some (0xFFFF#16, 0xFFFF#16, 1#16, 2) := by decide -- V2.10
theorem test_sub_no_borrow : see (step (abx [0x0403#16] 0x0005#16 0x0003#16 0x7777#16)) aexpc =
    some (0x0002#16, 0x0000#16, 1#16, 2) := by decide -- V2.11
theorem test_mul_same : see (step (abx [0x0004#16] 0x0100#16 0x0000#16 0x0000#16)) aexpc =
    some (0x0000#16, 0x0001#16, 1#16, 2) := by decide -- V2.20
theorem test_mli_negative : see (step (abx [0x0405#16] 0xFFFE#16 0x0003#16 0x0000#16)) aexpc =
    some (0xFFFA#16, 0xFFFF#16, 1#16, 2) := by decide -- V2.26
theorem test_mli_square : see (step (abx [0x0405#16] 0x8000#16 0x8000#16 0x0000#16)) aexpc =
    some (0x0000#16, 0x4000#16, 1#16, 2) := by decide -- V2.23
theorem test_div_fraction : see (step (abx [0x0406#16] 0x0001#16 0x0003#16 0x0000#16)) aexpc =
    some (0x0000#16, 0x5555#16, 1#16, 3) := by decide -- V2.30
theorem test_div_zero : see (step (abx [0x8406#16] 0x1234#16 0x0000#16 0x7777#16)) aexpc =
    some (0x0000#16, 0x0000#16, 1#16, 3) := by decide -- V2.32
theorem test_dvi_truncates : see (step (abx [0x0407#16] 0xFFF9#16 0x0002#16 0x0000#16)) aexpc =
    some (0xFFFD#16, 0x8000#16, 1#16, 3) := by decide -- V2.35
theorem test_dvi_wraps : see (step (abx [0x0407#16] 0x8000#16 0xFFFF#16 0x0000#16)) aexpc =
    some (0x8000#16, 0x0000#16, 1#16, 3) := by decide -- V2.39
theorem test_mod_keeps_ex : see (step (abx [0x0408#16] 0x0007#16 0x0002#16 0x5555#16)) aexpc =
    some (0x0001#16, 0x5555#16, 1#16, 3) := by decide -- V2.44
theorem test_mod_zero : see (step (abx [0x8408#16] 0x1234#16 0x0000#16 0x5555#16)) aexpc =
    some (0x0000#16, 0x5555#16, 1#16, 3) := by decide -- V2.47
theorem test_mdi_sign : see (step (abx [0x0409#16] 0xFFF9#16 0x0010#16 0x0000#16)) aexpc =
    some (0xFFF9#16, 0x0000#16, 1#16, 3) := by decide -- V2.49
theorem test_mdi_sign_of_dividend : see (step (abx [0x0409#16] 0x0007#16 0xFFF0#16 0x0000#16)) aexpc =
    some (0x0007#16, 0x0000#16, 1#16, 3) := by decide -- V2.50
theorem test_and : see (step (abx [0x040A#16] 0xF0F0#16 0x3C3C#16 0x7777#16)) aexpc =
    some (0x3030#16, 0x7777#16, 1#16, 1) := by decide -- V3.1
theorem test_bor : see (step (abx [0x040B#16] 0xF0F0#16 0x3C3C#16 0x7777#16)) aexpc =
    some (0xFCFC#16, 0x7777#16, 1#16, 1) := by decide -- V3.2
theorem test_xor : see (step (abx [0x040C#16] 0xF0F0#16 0x3C3C#16 0x7777#16)) aexpc =
    some (0xCCCC#16, 0x7777#16, 1#16, 1) := by decide -- V3.3
theorem test_shr_by_17 : see (step (abx [0xC80D#16] 0x8001#16 0x0000#16 0x0000#16)) aexpc =
    some (0x0000#16, 0x4000#16, 1#16, 1) := by decide -- V3.12
theorem test_shr_by_31 : see (step (abx [0x040D#16] 0xFFFF#16 0x001F#16 0x0000#16)) aexpc =
    some (0x0000#16, 0x0001#16, 1#16, 1) := by decide -- V3.13
theorem test_asr_by_4 : see (step (abx [0x940E#16] 0x8234#16 0x0000#16 0x0000#16)) aexpc =
    some (0xF823#16, 0x4000#16, 1#16, 1) := by decide -- V3.16
theorem test_asr_by_32 : see (step (abx [0x040E#16] 0x8000#16 0x0020#16 0x0000#16)) aexpc =
    some (0xFFFF#16, 0x0000#16, 1#16, 1) := by decide -- V3.24
theorem test_shl_by_4 : see (step (abx [0x940F#16] 0x1234#16 0x0000#16 0x0000#16)) aexpc =
    some (0x2340#16, 0x0001#16, 1#16, 1) := by decide -- V3.26
theorem test_shl_by_31 : see (step (abx [0x040F#16] 0xFFFF#16 0x001F#16 0x0000#16)) aexpc =
    some (0x0000#16, 0x8000#16, 1#16, 1) := by decide -- V3.32
theorem test_adx_ex_is_two : see (step (abx [0x041A#16] 0xFFFF#16 0xFFFF#16 0xFFFF#16)) aexpc =
    some (0xFFFD#16, 0x0002#16, 1#16, 3) := by decide -- V5.3
theorem test_adx_carry_in : see (step (abx [0x041A#16] 0xFFFF#16 0x0000#16 0x0001#16)) aexpc =
    some (0x0000#16, 0x0001#16, 1#16, 3) := by decide -- V5.1
theorem test_sbx_whole_ex : see (step (abx [0x041B#16] 0x0005#16 0x0003#16 0xFFFF#16)) aexpc =
    some (0x0001#16, 0x0001#16, 1#16, 3) := by decide -- V5.10
theorem test_sbx_borrow : see (step (abx [0x041B#16] 0x0003#16 0x0005#16 0x0001#16)) aexpc =
    some (0xFFFF#16, 0xFFFF#16, 1#16, 3) := by decide -- V5.12
theorem test_ifb : (see (step (abx [0x0410#16, 0x8841#16, 0x8861#16] 0x00F0#16 0x0010#16 0#16)) fun t => (t.pc, t.cycles),
    see (step (abx [0x0410#16, 0x8841#16, 0x8861#16] 0x00F0#16 0x000F#16 0#16)) fun t => (t.pc, t.cycles)) =
    (some (1#16, 2), some (2#16, 3)) := by decide -- V4.1, V4.2
theorem test_ifc : (see (step (abx [0x0411#16, 0x8841#16, 0x8861#16] 0x00F0#16 0x000F#16 0#16)) fun t => (t.pc, t.cycles),
    see (step (abx [0x0411#16, 0x8841#16, 0x8861#16] 0x00F0#16 0x0010#16 0#16)) fun t => (t.pc, t.cycles)) =
    (some (1#16, 2), some (2#16, 3)) := by decide -- V4.4, V4.5
theorem test_ife : (see (step (abx [0x0412#16, 0x8841#16, 0x8861#16] 0x0005#16 0x0005#16 0#16)) fun t => (t.pc, t.cycles),
    see (step (abx [0x0412#16, 0x8841#16, 0x8861#16] 0x0005#16 0x0006#16 0#16)) fun t => (t.pc, t.cycles)) =
    (some (1#16, 2), some (2#16, 3)) := by decide -- V4.7, V4.8
theorem test_ifn : (see (step (abx [0x0413#16, 0x8841#16, 0x8861#16] 0x0005#16 0x0006#16 0#16)) fun t => (t.pc, t.cycles),
    see (step (abx [0x0413#16, 0x8841#16, 0x8861#16] 0x0005#16 0x0005#16 0#16)) fun t => (t.pc, t.cycles)) =
    (some (1#16, 2), some (2#16, 3)) := by decide -- V4.10, V4.11
theorem test_ifg : (see (step (abx [0x0414#16, 0x8841#16, 0x8861#16] 0xFFFF#16 0x0001#16 0#16)) fun t => (t.pc, t.cycles),
    see (step (abx [0x0414#16, 0x8841#16, 0x8861#16] 0x0001#16 0xFFFF#16 0#16)) fun t => (t.pc, t.cycles)) =
    (some (1#16, 2), some (2#16, 3)) := by decide -- V4.12, V4.13
theorem test_ifa : (see (step (abx [0x0415#16, 0x8841#16, 0x8861#16] 0x0001#16 0xFFFF#16 0#16)) fun t => (t.pc, t.cycles),
    see (step (abx [0x0415#16, 0x8841#16, 0x8861#16] 0xFFFF#16 0x0001#16 0#16)) fun t => (t.pc, t.cycles)) =
    (some (1#16, 2), some (2#16, 3)) := by decide -- V4.15, V4.16
theorem test_ifl : (see (step (abx [0x0416#16, 0x8841#16, 0x8861#16] 0x0001#16 0xFFFF#16 0#16)) fun t => (t.pc, t.cycles),
    see (step (abx [0x0416#16, 0x8841#16, 0x8861#16] 0xFFFF#16 0x0001#16 0#16)) fun t => (t.pc, t.cycles)) =
    (some (1#16, 2), some (2#16, 3)) := by decide -- V4.19, V4.20
theorem test_ifu : (see (step (abx [0x0417#16, 0x8841#16, 0x8861#16] 0xFFFF#16 0x0001#16 0#16)) fun t => (t.pc, t.cycles),
    see (step (abx [0x0417#16, 0x8841#16, 0x8861#16] 0x0001#16 0xFFFF#16 0#16)) fun t => (t.pc, t.cycles)) =
    (some (1#16, 2), some (2#16, 3)) := by decide -- V4.22, V4.23
theorem test_skip_chain : see (step (image [0x8812#16, 0x8433#16, 0xA054#16, 0x7FC1#16, 0x0030#16, 0x1000#16, 0x8861#16]))
    (fun t => (t.pc, t.cycles, t.ex)) = some (6#16, 5, 0#16) := by decide -- V4.31
theorem test_set_next_words : see (step ((image [0x7A01#16, 0x1000#16, 0x0002#16]).setReg .a 0x2000#16 |>.store 0x1000#16 0xBEEF#16))
    (fun t => (t.mem.read 0x2002#16, t.pc, t.cycles)) = some (0xBEEF#16, 3#16, 3) := by decide -- V1.11
theorem test_set_push_sp : see (step ((image [0x6F01#16]).setSp 0x8000#16)) (fun t => (t.sp, t.mem.read 0x7FFF#16)) =
    some (0x7FFF#16, 0x8000#16) := by decide -- V1.14
theorem test_sti_destination_i : see (step (((image [0x98DE#16]).setReg .i 0x0100#16).setReg .j 0x0200#16))
    (fun t => (t.reg .i, t.reg .j, t.pc)) = some (6#16, 0x0201#16, 1#16) := by decide -- V5.19
theorem test_sti_copies : see (step ((((image [0x3DDE#16]).setReg .i 0x1000#16).setReg .j 0x2000#16).store 0x2000#16 0xAB#16))
    (fun t => (t.mem.read 0x1000#16, t.reg .i, t.reg .j)) = some (0xAB#16, 0x1001#16, 0x2001#16) := by decide -- V5.18
theorem test_std_wraps : see (step (((image [0xA01F#16]).setReg .i 0#16).setReg .j 0x10#16))
    (fun t => (t.reg .a, t.reg .i, t.reg .j)) = some (7#16, 0xFFFF#16, 0xF#16) := by decide -- V5.21
theorem test_std_destination_j : see (step (((image [0x98FF#16]).setReg .i 0x0100#16).setReg .j 0x0200#16))
    (fun t => (t.reg .i, t.reg .j)) = some (0xFF#16, 4#16) := by decide -- V5.22
theorem test_jsr_pop : see (step (((image [0x6020#16]).setSp 0x8000#16).store 0x8000#16 0x0300#16))
    (fun t => (t.pc, t.sp, t.mem.read 0x8000#16, t.cycles)) = some (0x0300#16, 0x8000#16, 1#16, 3) := by decide -- V6.3
theorem test_jsr_wraps : see (step (image [0x7C20#16, 0x0100#16])) (fun t => (t.pc, t.sp, t.mem.read 0xFFFF#16, t.cycles)) =
    some (0x0100#16, 0xFFFF#16, 2#16, 4) := by decide -- V6.1
theorem test_int : see (step (image [0x7D00#16, 0x0042#16])) (fun t => (t.iq, t.pc, t.cycles)) =
    some ([0x0042#16], 2#16, 5) := by decide -- V6.20
theorem test_int_at_the_tail : see (step (((image [0x9100#16]).setIq [1#16, 2#16]).setIe false)) (fun t => t.iq) =
    some [1#16, 2#16, 3#16] := by decide -- V6.22
theorem test_iag_pop : see (step (((image [0x6120#16]).setIa 0x0100#16).setSp 0x8000#16))
    (fun t => (t.sp, t.mem.read 0x8000#16, t.cycles)) = some (0x8001#16, 0x0100#16, 1) := by decide -- V6.13
theorem test_ias : see (step (image [0x7D40#16, 0x0100#16])) (fun t => (t.ia, t.pc, t.cycles)) =
    some (0x0100#16, 2#16, 2) := by decide -- V6.7
theorem test_iaq_off : see (step (image [0x8980#16])) (fun t => (t.ie, t.cycles)) = some (false, 2) := by decide -- V6.14
theorem test_iaq_on : see (step ((image [0x8580#16]).setIe false)) (fun t => t.ie) = some true := by decide -- V6.15
theorem test_rfi_pop : see (step (((((image [0x6160#16]).setSp 0x8000#16).setIe false).store 0x8001#16 2#16).store 0x8002#16 3#16))
    (fun t => (t.reg .a, t.pc, t.sp, t.ie, t.cycles)) = some (2#16, 3#16, 0x8003#16, true, 3) := by decide -- V6.18

/-- The two devices of section 2.8. -/
def twoDevices : List DeviceIdentity := [⟨0x12345678#32, 9#16, 0x9ABCDEF0#32⟩, ⟨0xDEADBEEF#32, 0x0102#16, 0x00C0FFEE#32⟩]
/-- Device 1 returns 7 extra cycles and asks for a wake, device 0 does nothing. -/
def reaction : Nat → DeviceCall → View → Reaction := fun d c _ =>
  match c with
  | .interrupt 1 => ⟨7, [.scheduleWake 1 2 5], d + 1⟩
  | .interrupt _ => ⟨0, [], d⟩
  | .wake _ _ _ => ⟨9, [.scheduleWake 1 0 6], d + 1⟩

theorem test_hwn : runs (exec (.hwn aA) State.reset) = true := rfl
theorem test_hwq_device_0 : (fun t : State => (t.reg .a, t.reg .b, t.reg .c, t.reg .x, t.reg .y)) (hwqWith twoDevices 0#16 State.reset)
    = (0x5678#16, 0x1234#16, 9#16, 0xDEF0#16, 0x9ABC#16) := by decide -- V7.4
theorem test_hwq_out_of_range : hwqWith twoDevices 2#16 (State.reset.setReg .a 0x1111#16) = State.reset.setReg .a 0x1111#16 := by
  decide -- V7.6
theorem test_hwi_extra_cycles : (hwiWith 2 reaction 1#16 (State.reset.setCycles 4)).cycles = 11 := by decide -- V7.10
theorem test_hwi_out_of_range : (hwiWith 2 reaction 2#16 (State.reset.setCycles 4)).cycles = 4 := by decide -- V7.11

/-- S7: the illegal word 0 freezes the block, and PC stays. -/
theorem test_illegal_word : see (step State.reset) (fun t => (t.cpuState, t.pc, t.cycles, t.t)) =
    some (.errorIllegalInstruction, 0#16, 0, 0) := by decide
/-- T3 of section 2.9: delivery pushes PC, then A, and the handler's first instruction runs in the same step. -/
theorem test_delivery : see (step ((((abx [] 0x1111#16 0#16 0#16).setIa 0x0100#16).setIq [0x0042#16]).setPc 0x0003#16
    |>.store 0x0100#16 0x8821#16)) (fun t => (t.reg .a, t.reg .b, t.pc, t.sp, t.ie)) =
    some (0x0042#16, 1#16, 0x0101#16, 0xFFFE#16, false) := by decide
theorem test_delivery_stack : see (step ((((abx [] 0x1111#16 0#16 0#16).setIa 0x0100#16).setIq [0x0042#16]).setPc 0x0003#16
    |>.store 0x0100#16 0x8821#16)) (fun t => (t.mem.read 0xFFFE#16, t.mem.read 0xFFFF#16)) =
    some (0x1111#16, 0x0003#16) := by decide
/-- S8: the request that ends first fires first, whatever the order of the requests, and a wake asked for in a callback waits. -/
theorem test_wake_order : (flushWith reaction ((scheduleWake 1 3 200 (scheduleWake 0 5 100 State.reset)).setT 5)).calls =
    [.wake 1 5 200, .wake 0 5 100] := by decide
theorem test_wake_in_callback_waits : ((flushWith reaction ((scheduleWake 0 5 100 State.reset).setT 5)).wq).map (fun q => (q.dev, q.endT)) =
    [(1, 5)] := by decide
/-- R257, R258: what a woken device does takes effect, from what it sees: a register and a word written, `Interrupt(7)` as in
T12, and a wake that waits. -/
theorem test_woken_device_acts : (fun t : State => (t.reg .b, t.mem.read 0x0100#16, t.iq, t.wq.map WakeRequest.endT, t.calls))
    (flushWith (fun d c v => match c with
      | .wake _ n _ => ⟨0, [.setRegister (.general .b) (v.register .pc + v.memory 0#16), .writeMemory 0x0100#16 (BitVec.ofNat 16 n),
          .interrupt 7#16, .scheduleWake 0 6 0], d⟩
      | .interrupt _ => ⟨0, [], d⟩) (((scheduleWake 0 6 0 (image [5#16])).setPc 0x0021#16).setT 9)) =
    (0x0026#16, 9#16, [7#16], [15], [.wake 0 9 0]) := by decide

/-! ### Witnesses: a state and operands that meet the hypotheses of each obligation -/

/-- A state off its reset values, memory in canonical form. -/
def sample : State :=
  { State.reset with
    regs := ⟨0x1111#16, 0x0002#16, 3#16, 4#16, 5#16, 6#16, 0xFFFF#16, 0#16⟩
    pc := 0xFFFF#16
    sp := 0#16
    ex := 7#16
    ia := 0x0200#16
    mem := (loadImage [0x8801#16, 0#16, 0x1234#16] (State.reset.store 0xFFFF#16 0x7C01#16)).mem }

theorem test_witness_wellFormed : (Instr.set bA (.lit 0xFFFF#16)).wellFormed = true ∧ (Instr.rfi (.lit 30#16)).wellFormed = true ∧
    (Instr.std .push (.lit 0#16)).wellFormed = true ∧ (Instr.hwi .pop).wellFormed = true := by decide
theorem test_witness_decodes : decode [0x8801#16] = .ok (.set bA (.lit 1#16), []) ∧
    decode [0x7C01#16, 9#16, 8#16] = .ok (.set bA (.mode (.next 9#16)), [8#16]) ∧
    decode [0x7FC1#16, 9#16, 8#16] = .ok (.set (.mode (.memNext 8#16)) (.mode (.next 9#16)), []) := by decide
theorem test_witness_illegal : (∃ e, decodeWord 0x0000#16 = .error e) ∧ (∃ e, decodeWord 0x03E0#16 = .error e) ∧
    (∃ e, decodeWord 0x001D#16 = .error e) ∧ ∃ i, decodeWord 0x8801#16 = .ok i := ⟨⟨_, rfl⟩, ⟨_, rfl⟩, ⟨_, rfl⟩, ⟨_, rfl⟩⟩
/-- For every statement about memory in canonical form. -/
theorem test_witness_canonical : State.reset.mem.wf = true ∧ sample.mem.wf = true ∧ sample.mem.read 0xFFFF#16 = 0x7C01#16 ∧
    sample.mem.read 0#16 = 0x8801#16 ∧ (0xFFFF#16 : Word) ≠ 0#16 := by decide
theorem test_witness_equal_memories : (sample.mem.write 5#16 1#16).wf = true ∧
    ∀ a, (sample.mem.write 5#16 1#16).read a = (sample.mem.write 5#16 1#16).read a := ⟨by decide, fun _ => rfl⟩
/-- The edges of the clauses of the operand tables. -/
theorem test_witness_operand_fields : (decodeA 0x07#6 [9#16]).toOption = some (.mode (.reg .j), [9#16]) ∧
    (decodeA 0x08#6 [9#16]).toOption = some (.mode (.ind .a), [9#16]) ∧ (decodeA 0x10#6 [9#16]).toOption = some (.mode (.indNext .a 9#16), []) ∧
    (decodeA 0x18#6 [9#16]).toOption = some (.pop, [9#16]) ∧ (decodeA 0x1F#6 [9#16]).toOption = some (.mode (.next 9#16), []) ∧
    (decodeA 0x20#6 [9#16]).toOption = some (.lit 0xFFFF#16, [9#16]) ∧ (decodeA 0x3F#6 [9#16]).toOption = some (.lit 30#16, [9#16]) := by
  decide
theorem test_witness_operand_b : (0x17#5).toNat ≠ 0x18 ∧ (0x18#5).toNat = 0x18 ∧ (0x19#5).toNat ≠ 0x18 ∧ (0x1F#5).toNat ≠ 0x18 := by
  decide
/-- Referents that meet each clause of the write law and of the frames: none is a literal, and each kind differs from the others. -/
theorem test_witness_referents : (∀ w, (resolveBoth bA aB sample).refB ≠ .lit w) ∧ (resolveBoth bA aB sample).refB ≠ .ex ∧
    (resolveBoth bA aB sample).refB ≠ .sp ∧ (resolveBoth bA aB sample).refB ≠ .pc ∧ (resolveBoth bA aB sample).refB ≠ .reg .j ∧
    (resolveBoth bA aB sample).refB ≠ .memAt 0#16 ∧ (resolveBoth (.mode (.next 5#16)) aB sample).refB = .lit 5#16 := by
  refine ⟨fun w h => ?_, by decide, by decide, by decide, by decide, by decide, rfl⟩
  cases h
theorem test_witness_referent_of_a : (∀ w, (resolveA .pop sample).1 ≠ .lit w) ∧ (resolveA .pop sample).1 ≠ .reg .a ∧
    (resolveA .pop sample).1 ≠ .memAt 1#16 := by
  refine ⟨fun w h => ?_, by decide, by decide⟩
  cases h
theorem test_witness_modes : Mode.reg .a ≠ .peek ∧ ∀ nw, Mode.reg .a ≠ .pick nw := ⟨by decide, fun nw h => by cases h⟩
/-- The two cases of a borrow at its edge, and of a divisor: 2 and 2, 2 and 3; 0 and 1. -/
theorem test_witness_borrow : ¬ (2#16 : Word).toNat < (2#16 : Word).toNat ∧ (2#16 : Word).toNat < (3#16 : Word).toNat := by decide
theorem test_witness_divisors : (resolveBoth bA (.lit 0#16) sample).va = 0#16 ∧ (resolveBoth bA (.lit 1#16) sample).va ≠ 0#16 ∧
    (resolveBoth bA (.lit 0xFFFF#16) sample).va ≠ 0#16 := by decide
theorem test_witness_signed_division : (1#16 : Word) ≠ 0#16 ∧ ¬ ((0x8000#16 : Word) = 0x8000#16 ∧ (1#16 : Word) = 0xFFFF#16) ∧
    ¬ ((0x8001#16 : Word) = 0x8000#16 ∧ (0xFFFF#16 : Word) = 0xFFFF#16) := by decide
theorem test_witness_frames : ((writesBOnly bA aB).all fun i => runs (exec i sample)) = true ∧
    ((writesEx bA aB).all fun i => runs (exec i sample)) = true := by decide
theorem test_witness_sti_std : ∀ c ∈ [(Instr.sti bA aB, (1 : Int)), (Instr.std bA aB, -1)], runs (exec c.1 sample) = true := by decide

/-- The values of A and B in a state with them. -/
theorem abx_values (x y : Word) : (resolveBoth bA aB (abx [] x y 0#16)).vb = x ∧ (resolveBoth bA aB (abx [] x y 0#16)).va = y :=
  ⟨rfl, rfl⟩

/-- Each of the eight tests holds of a pair of values, A and B, at the edge of its range. -/
theorem test_witness_true_conditionals :
    (∃ k, (0x8000#16 : Word).getLsbD k = true ∧ (0x8000#16 : Word).getLsbD k = true) ∧
    (¬ ∃ k, (0x8000#16 : Word).getLsbD k = true ∧ (0#16 : Word).getLsbD k = true) ∧
    (5#16 : Word) = 5#16 ∧ (5#16 : Word) ≠ 6#16 ∧ (0x8000#16 : Word) > 0x7FFF#16 ∧
    (0x7FFF#16 : Word).toInt > (0x8000#16 : Word).toInt ∧ (0x7FFF#16 : Word) < 0x8000#16 ∧
    (0x8000#16 : Word).toInt < (0x7FFF#16 : Word).toInt :=
  ⟨⟨15, by decide, by decide⟩, fun ⟨k, _, h⟩ => by simp at h, rfl, by decide, by decide, by decide, by decide, by decide⟩
/-- Each of the eight tests fails of a pair of values at the edge of its range. -/
theorem test_witness_false_conditionals :
    (¬ ∃ k, (0x8000#16 : Word).getLsbD k = true ∧ (0#16 : Word).getLsbD k = true) ∧
    (¬ ¬ ∃ k, (0x8000#16 : Word).getLsbD k = true ∧ (0x8000#16 : Word).getLsbD k = true) ∧
    ¬ (5#16 : Word) = 6#16 ∧ ¬ (5#16 : Word) ≠ 5#16 ∧ ¬ (5#16 : Word) > 5#16 ∧ ¬ (5#16 : Word).toInt > (5#16 : Word).toInt ∧
    ¬ (5#16 : Word) < 5#16 ∧ ¬ (5#16 : Word).toInt < (5#16 : Word).toInt :=
  ⟨fun ⟨k, _, h⟩ => by simp at h, fun h => h ⟨15, by decide, by decide⟩, by decide, by decide, by decide, by decide, by decide,
    by decide⟩

/-- A chain of two conditionals, the second with a next word, then an unconditional instruction; and, with `w` 0, an illegal
word. -/
def chain (w : Word) : State := image [0x8812#16, 0x7C13#16, 9#16, w]

theorem chain_run (w : Word) (h : (chain w).mem.read 0#16 = 0x8812#16 ∧ (chain w).mem.read 1#16 = 0x7C13#16) :
    CondRun (chain w).mem 0#16 2 3#16 := by
  refine .more _ (.ife bA (.lit 1#16)) _ _ (by rw [h.1]; rfl) rfl ?_
  refine .more _ (.ifn bA (.mode (.next 0#16))) _ _ ?_ rfl (.none _)
  have e : (0#16 : Word) + BitVec.ofNat 16 (Instr.ife bA (.lit 1#16)).words = 1#16 := by decide
  rw [e, h.2]; rfl
/-- For the false conditionals: a chain of two and, at its end, an unconditional instruction; the same chain before an illegal
word; and no chain at all. The instruction itself is `IFE A, B` with A = 1, B = 0. -/
theorem test_witness_skip_chain : (Instr.ife bA aB, fun vb va : Word => vb = va) ∈ conditionalTable bA aB ∧
    ¬ ((1#16 : Word) = 0#16) ∧ CondRun (chain 0x8801#16).mem 0#16 2 3#16 ∧
    decodeWord ((chain 0x8801#16).mem.read 3#16) = .ok (.set bA (.lit 1#16)) ∧
    (Instr.set bA (.lit 1#16)).isConditional = false ∧
    CondRun (chain 0#16).mem 0#16 2 3#16 ∧ decodeWord ((chain 0#16).mem.read 3#16) = .error (.unmappedSpecialSlot 0#5) ∧
    CondRun (image [0x8801#16]).mem 0#16 0 0#16 ∧ decodeWord ((image [0x8801#16]).mem.read 0#16) = .ok (.set bA (.lit 1#16)) := by
  refine ⟨List.mem_of_getElem? (i := 2) rfl, by decide, chain_run _ (by decide), by decide, rfl, chain_run _ (by decide),
    by decide, .none _, by decide⟩

/-- Every word of memory is `IFN A, A`, which is always false. -/
def allIfn : Memory := ⟨(List.range' 0 65536).map fun n => (2 * n, 0x13#8)⟩

theorem cellAt_every (n k j : Nat) : cellAt ((List.range' k n).map fun n => (2 * n, 0x13#8)) (2 * j) =
    if k ≤ j ∧ j < k + n then 0x13#8 else 0#8 := by
  induction n generalizing k with
  | zero =>
    rw [if_neg (by omega)]
    rfl
  | succ n ih =>
    simp only [List.range'_succ, List.map_cons, cellAt]
    by_cases h : k = j
    · subst h
      rw [if_pos rfl, if_pos (by omega)]
    · rw [if_neg (by omega), ih]
      by_cases h2 : k + 1 ≤ j ∧ j < k + 1 + n
      · rw [if_pos h2, if_pos (by omega)]
      · rw [if_neg h2, if_neg (by omega)]

theorem cellAt_every_odd (n k j : Nat) : cellAt ((List.range' k n).map fun n => (2 * n, 0x13#8)) (2 * j + 1) = 0#8 := by
  induction n generalizing k with
  | zero => rfl
  | succ n ih =>
    simp only [List.range'_succ, List.map_cons, cellAt]
    rw [if_neg (by omega), ih]

theorem allIfn_read (a : Word) : allIfn.read a = 0x0013#16 := by
  have h := a.isLt
  have e1 := cellAt_every 65536 0 a.toNat
  have e2 := cellAt_every_odd 65536 0 a.toNat
  rw [if_pos (by omega)] at e1
  simp only [Memory.read, allIfn, e1, e2]
  rfl

theorem allIfn_decodes (a : Word) : decodeWord (allIfn.read a) = .ok (.ifn bA aA) := by
  rw [allIfn_read]; rfl

/-- The state with that memory. -/
def endless : State := { State.reset with mem := allIfn }

/-- Runs of conditionals of every length stand at PC, and the test of `IFN A, A` fails: the endless chain. -/
theorem test_witness_endless_chain : (Instr.ifn bA aA, fun vb va : Word => vb ≠ va) ∈ conditionalTable bA aA ∧
    (¬ (resolveBoth bA aA endless).vb ≠ (resolveBoth bA aA endless).va) ∧ ∀ n, ∃ pc', CondRun endless.mem endless.pc n pc' := by
  refine ⟨List.mem_of_getElem? (i := 3) rfl, fun h => h rfl, fun n => ?_⟩
  have all : ∀ n pc, ∃ pc', CondRun allIfn pc n pc' := by
    intro n
    induction n with
    | zero => exact fun pc => ⟨pc, .none pc⟩
    | succ n ih =>
      intro pc
      obtain ⟨pc', h⟩ := ih (pc + BitVec.ofNat 16 (Instr.ifn bA aA).words)
      exact ⟨pc', .more pc _ n pc' (allIfn_decodes pc) rfl h⟩
  exact all n endless.pc

theorem skipChain_endless (fuel : Nat) : ∀ s : State, s.mem = allIfn → skipChain fuel s = .fault .skipChainNeverEnds := by
  induction fuel with
  | zero => exact fun s _ => rfl
  | succ n ih =>
    intro s h
    simp only [skipChain, h, allIfn_decodes]
    exact ih _ h
/-- The clause of the step on a fault: `IFN A, A` at `endless` faults. -/
theorem test_witness_step_faults (n : Nat) (pc : Word) :
    exec (.ifn bA aA) ((endless.setPc pc).setCycles n) = .fault .skipChainNeverEnds ∧
    ∃ i rest, decode [endless.mem.read 0#16, endless.mem.read 1#16, endless.mem.read 2#16] = .ok (i, rest) := by
  refine ⟨?_, ?_⟩
  · rcases executeConditional_cases testIfn bA aA ((endless.setPc pc).setCycles n) with ⟨h, -⟩ | ⟨-, h⟩
    · simp [testIfn, resolveBoth, resolveA, resolveB, resolveMode, State.readRef] at h
    · exact h.trans (skipChain_endless _ _ rfl)
  · simp only [endless, allIfn_read]
    exact ⟨_, _, rfl⟩

/-- The queue one below its capacity, and full. -/
theorem test_witness_int : sample.cpuState = .running ∧ (sample.setIq (List.replicate 255 0#16)).iq.length < 256 ∧
    256 ≤ (sample.setIq (List.replicate 256 0#16)).iq.length := by decide +kernel
theorem test_witness_int_on_full_queue :
    let s := ((image [0x0100#16]).setIe false).setIq (List.replicate 256 0#16)
    s.cpuState = .running ∧ s.ie = false ∧ 256 ≤ s.iq.length ∧ s.wq = [] ∧ s.flushing = false ∧ s.deferred = [] ∧
    decode [s.mem.read s.pc, s.mem.read (s.pc + 1#16), s.mem.read (s.pc + 2#16)] = .ok (.int aA, [0#16, 0#16]) := by decide +kernel
theorem test_witness_iaq : valueA (.lit 0#16) sample = 0#16 ∧ valueA (.lit 1#16) sample ≠ 0#16 := by decide
/-- An index of a list of two devices, the last; and the first one out of range. -/
theorem test_witness_devices : twoDevices[(1#16 : Word).toNat]? = some ⟨0xDEADBEEF#32, 0x0102#16, 0x00C0FFEE#32⟩ ∧
    twoDevices.length ≤ (2#16 : Word).toNat ∧ (1#16 : Word).toNat < 2 ∧ 2 ≤ (2#16 : Word).toNat := by decide

/-- A state with a handler and two messages. -/
def interrupted : State := sample.setIq [0x42#16, 0x43#16]

theorem test_witness_delivery : interrupted.mem.wf = true ∧ interrupted.ie = true ∧ interrupted.ia ≠ 0#16 ∧
    interrupted.iq = 0x42#16 :: [0x43#16] ∧ (OperandA.lit 0#16) ≠ .pop := by decide
theorem test_witness_no_delivery : (interrupted.setIa 0#16).ie = true ∧ (interrupted.setIa 0#16).ia = 0#16 ∧
    (interrupted.setIe false).ie = false ∧ (interrupted.setIq []).iq = [] := by decide
theorem test_witness_control_writers : runs (exec (.set bA aB) sample) = true ∧ (∀ a, Instr.set bA aB ≠ .ias a) ∧
    (∀ a, Instr.set bA aB ≠ .hwi a) ∧ (∀ a, Instr.set bA aB ≠ .rfi a) ∧ ∀ a, Instr.set bA aB ≠ .iaq a :=
  ⟨rfl, fun _ h => (by cases h), fun _ h => (by cases h), fun _ h => (by cases h), fun _ h => (by cases h)⟩
/-- A sorted wake list with a tie, outside a flush and with nothing deferred; one request is due at T = 5, one is not. -/
theorem test_witness_wakes : let s := (State.reset.setT 5).setWq [⟨0, 1, 0, 5⟩, ⟨1, 2, 0, 6⟩, ⟨2, 3, 0, 6⟩]
    s.flushing = false ∧ s.deferred = [] ∧ s.wq.Pairwise (fun p q => p.endT ≤ q.endT) ∧ ⟨1, 2, 0, 6⟩ ∈ s.wq ∧ s.t < 6 := by decide
theorem test_witness_no_reaction : ∀ d c v, ((fun d _ _ => ⟨3, [], d⟩ : Nat → DeviceCall → View → Reaction) d c v).actions = [] :=
  fun _ _ _ => rfl
/-- While a flush runs: a state with a request deferred; and a reaction that depends on the call alone. -/
theorem test_witness_flushing : ((State.reset.setFlushing true).setDeferred [⟨0, 1, 0, 5⟩]).flushing = true ∧
    ∀ d c v, ((fun d _ _ => ⟨3, [.scheduleWake 1 0 6], d⟩ : Nat → DeviceCall → View → Reaction) d c v).actions =
      (fun _ => [.scheduleWake 1 0 6] : DeviceCall → List Action) c := ⟨rfl, fun _ _ _ => rfl⟩
/-- The requests three callbacks of one flush make enter WQ by end, and in the order requested among equals (R252, R254). -/
theorem test_flush_admits_in_order : ((flushWith (fun d c _ => match c with
      | .wake dev _ _ => ⟨0, [.scheduleWake dev 3 6, .scheduleWake dev 0 7], d⟩
      | .interrupt _ => ⟨0, [], d⟩)
    ((State.reset.setT 5).setWq [⟨0, 1, 0, 4⟩, ⟨2, 2, 0, 5⟩, ⟨3, 3, 0, 5⟩, ⟨4, 4, 0, 6⟩])).wq).map (fun q => (q.dev, q.ctx, q.endT)) =
    [(0, 7, 5), (2, 7, 5), (3, 7, 5), (4, 4, 6), (0, 6, 8), (2, 6, 8), (3, 6, 8)] := by decide
/-- `Interrupt(m)` of the host: a running block with 255 messages, with 256, and a frozen one; and two names that differ. -/
theorem test_witness_host_interrupt : (sample.setIq (List.replicate 255 0#16)).cpuState = .running ∧
    (sample.setIq (List.replicate 255 0#16)).iq.length < 256 ∧ 256 ≤ (sample.setIq (List.replicate 256 0#16)).iq.length ∧
    (sample.setCpuState .errorIllegalInstruction).cpuState ≠ .running ∧ RegName.general .b ≠ .general .a ∧ RegName.sp ≠ .pc ∧
    (1#16 : Word) ≠ 0#16 :=
  ⟨rfl, (List.length_replicate (n := 255) (a := (0#16 : Word))).trans_lt (by decide),
    (List.length_replicate (n := 256) (a := (0#16 : Word))).ge, by decide, by decide, by decide, by decide⟩
/-- Images of 0, 2 and 65,536 words; an index of an image, and an address beyond one. -/
theorem test_witness_image : sample.mem.wf = true ∧ ([] : List Word).length ≤ 65536 ∧ [1#16, 2#16].length ≤ 65536 ∧
    (List.replicate 65536 (0#16 : Word)).length ≤ 65536 ∧ ([1#16, 2#16] : List Word)[1]? = some 2#16 ∧
    [1#16, 2#16].length ≤ (2#16 : Word).toNat :=
  ⟨by decide, by decide, by decide, List.length_replicate.le, by decide, by decide⟩
/-- The step of `SET A, nw` over the top of memory, with nothing queued, and with IE off and a message queued. -/
theorem test_witness_step_runs : sample.cpuState = .running ∧ sample.iq = [] ∧ (interrupted.setIe false).ie = false ∧
    decode [sample.mem.read sample.pc, sample.mem.read (sample.pc + 1#16), sample.mem.read (sample.pc + 2#16)] =
      .ok (.set bA (.mode (.next 0x8801#16)), [0#16]) ∧
    see (exec (.set bA (.mode (.next 0x8801#16))) sample) (fun t => t.cpuState) = some .running := by decide
/-- The step whose instruction freezes: `IFN A, A` before an illegal word. -/
theorem test_witness_step_freezes : see (exec (.ifn bA aA) ((image [0x0013#16]).setPc 1#16)) (fun t => t.cpuState) =
    some .errorIllegalInstruction ∧ (decode [0x0013#16, 0#16, 0#16]).toOption = some (.ifn bA aA, [0#16, 0#16]) := by decide
theorem test_witness_illegal_step : State.reset.cpuState = .running ∧ State.reset.iq = [] ∧
    decodeWord (State.reset.mem.read State.reset.pc) = .error (.unmappedSpecialSlot 0#5) := by decide
/-- A frozen state. -/
def frozen : State := sample.setCpuState .errorInterruptQueueFilled
theorem test_witness_frozen : frozen.cpuState ≠ .running ∧ frozen.mem.wf = true ∧ runs (step frozen) = true := by decide
theorem test_witness_step_answers : runs (step (image [0x8801#16])) = true ∧ runs (exec (.set bA aB) sample) = true ∧
    see (step State.reset) (fun t => t.cpuState) = some .errorIllegalInstruction := by decide
theorem test_witness_costs : (Instr.ife bA aB).isConditional = true ∧ (Instr.hwi aA) = .hwi aA := by decide
/-- The invariant at a state off its reset values, which steps. -/
theorem test_witness_invariant : interrupted.Inv ∧ runs (step interrupted) = true ∧ frozen.Inv :=
  ⟨⟨by decide, by decide, List.Pairwise.nil, rfl, rfl⟩, by decide,
    ⟨by decide, by decide, List.Pairwise.nil, rfl, rfl⟩⟩

end Sys2Proof.Tests
end

section
/-! SUPPORT. What an instruction and a step can do to memory and to the control state, the step-boundary invariant along a
step, and the statements of `10_state.md`. -/

namespace Sys2Proof.Machine

/-! ### What an operand or a write touches -/

/-- No control state is touched, and memory keeps its canonical form: what operands and writes may do. -/
structure DataOnly (s t : State) : Prop where
  control : SameControl s t
  mem : s.mem.wf = true → t.mem.wf = true

theorem DataOnly.refl (s : State) : DataOnly s s := ⟨SameControl.refl s, id⟩

theorem DataOnly.trans {s t u : State} (h : DataOnly s t) (g : DataOnly t u) : DataOnly s u :=
  ⟨h.control.trans g.control, fun hm => g.mem (h.mem hm)⟩

theorem dataOnly_setSp (s : State) (v : Word) : DataOnly s (s.setSp v) := ⟨sameControl_setSp s v, id⟩
theorem dataOnly_setReg (s : State) (r : Reg) (v : Word) : DataOnly s (s.setReg r v) := ⟨sameControl_setReg s r v, id⟩
theorem dataOnly_setEx (s : State) (v : Word) : DataOnly s (s.setEx v) := ⟨sameControl_setEx s v, id⟩

theorem dataOnly_writeRef (s : State) (r : Referent) (v : Word) : DataOnly s (s.writeRef r v) :=
  ⟨writeRef_sameControl s r v, fun hm => writeRef_wf hm r v⟩

/-- R114: the operands move SP alone. -/
theorem dataOnly_resolveBoth (b : OperandB) (a : OperandA) (s : State) : DataOnly s (resolveBoth b a s).state := by
  rw [resolveBoth_state]
  exact dataOnly_setSp s _

theorem dataOnly_writeResult (f : Word → Word → Word) (b : OperandB) (a : OperandA) (s : State) :
    DataOnly s (writeResult f b a s) :=
  (dataOnly_resolveBoth b a s).trans (dataOnly_writeRef _ _ _)

theorem dataOnly_writeResultEx (f e : Word → Word → Word) (b : OperandB) (a : OperandA) (s : State) :
    DataOnly s (writeResultEx f e b a s) :=
  (dataOnly_writeResult f b a s).trans (dataOnly_setEx _ _)

theorem dataOnly_writeAndStep (d : Word) (b : OperandB) (a : OperandA) (s : State) :
    DataOnly s (writeAndStep d b a s) :=
  ((dataOnly_writeResult (fun _ va => va) b a s).trans (dataOnly_setReg _ _ _)).trans (dataOnly_setReg _ _ _)

theorem dataOnly_writeA (a : OperandA) (s : State) (v : Word) : DataOnly s (writeA a s v) := by
  rw [writeA_eq]
  exact (dataOnly_setSp s _).trans (dataOnly_writeRef _ _ v)

/-- R121 and the jump of R200. -/
theorem dataOnly_push_setPc (s : State) (v pc : Word) : DataOnly s ((s.push v).setPc pc) :=
  ((dataOnly_setSp s _).trans (dataOnly_writeRef _ (.memAt (s.sp - 1#16)) v)).trans (dataOnly_writeRef _ .pc pc)

/-- R221, R224: HWQ writes registers or nothing. -/
theorem dataOnly_hwqWith (devices : List DeviceIdentity) (va : Word) (s : State) :
    DataOnly s (hwqWith devices va s) := by
  unfold hwqWith
  split
  · exact DataOnly.refl s
  · exact ((((dataOnly_setReg s .a _).trans (dataOnly_setReg _ .b _)).trans (dataOnly_setReg _ .c _)).trans
      (dataOnly_setReg _ .x _)).trans (dataOnly_setReg _ .y _)

/-! ### Everything an instruction can do to the control state -/

/-- What an instruction does to the control state, once its operands are resolved and its result is written. -/
inductive ControlChange : Instr → State → State → Prop
  /-- Nothing. -/
  | unchanged (i : Instr) (u : State) : ControlChange i u u
  /-- R178: a conditional skips ahead. -/
  | skip {i : Instr} (u : State) (pc : Word) (cycles : Nat) : i.isConditional = true →
      ControlChange i u ((u.setPc pc).setCycles cycles)
  /-- R179: a conditional skips onto an illegal word. -/
  | freeze {i : Instr} (u : State) (pc : Word) : i.isConditional = true →
      ControlChange i u (((u.setPc pc).setCycles 0).setCpuState .errorIllegalInstruction)
  /-- R201. -/
  | int (a : OperandA) (u : State) (m : Word) : ControlChange (.int a) u (requestInterrupt m u)
  /-- R203. -/
  | ias (a : OperandA) (u : State) (v : Word) : ControlChange (.ias a) u (u.setIa v)
  /-- R204. -/
  | rfi (a : OperandA) (u : State) : ControlChange (.rfi a) u (returnFromInterrupt u)
  /-- R205. -/
  | iaq (a : OperandA) (u : State) (e : Bool) : ControlChange (.iaq a) u (u.setIe e)
  /-- R222, R224. -/
  | hwi (a : OperandA) (u : State) (va : Word) :
      ControlChange (.hwi a) u (hwiWith Config.ndev Config.deviceReaction va u)

/-- Operands and writes first, then the change of the control state. -/
def ExecEffect (i : Instr) (s t : State) : Prop := ∃ u, DataOnly s u ∧ ControlChange i u t

theorem DataOnly.execEffect {s t : State} (h : DataOnly s t) (i : Instr) : ExecEffect i s t :=
  ⟨t, h, .unchanged i t⟩

/-- An operator that reads `a` and then does `k` has the effect of `k`. -/
theorem withValueA_execEffect {i : Instr} (a : OperandA) (s : State) {k : Word → State → State}
    (h : ∀ va u, ExecEffect i u (k va u)) : ExecEffect i s (withValueA a s k) := by
  rw [withValueA_eq]
  obtain ⟨u, hu, hc⟩ := h (valueA a s) (s.setSp (spAfterA a s.sp))
  exact ⟨u, (dataOnly_setSp s _).trans hu, hc⟩

/-- The change of the control state, seen from the state it starts in. -/
theorem ControlChange.execEffect {i : Instr} {u t : State} (h : ControlChange i u t) : ExecEffect i u t :=
  ⟨u, DataOnly.refl u, h⟩

/-- R178, R179: what a conditional can do. -/
theorem executeConditional_execEffect {i : Instr} (hi : i.isConditional = true) {c : Word → Word → Bool} {b : OperandB}
    {a : OperandA} {s t : State} (h : executeConditional c b a s = .next t) : ExecEffect i s t := by
  refine ⟨s.setSp (spAfterB b (spAfterA a s.sp)), dataOnly_setSp s _, ?_⟩
  rcases executeConditional_cases c b a s with ⟨-, e⟩ | ⟨-, e⟩ <;> rw [e] at h
  · cases h
    exact .unchanged i _
  · rcases skipChain_next h with ⟨pc, cycles, rfl⟩ | ⟨pc, rfl⟩
    · exact .skip _ pc cycles hi
    · exact .freeze _ pc hi

/-- Everything an instruction can do to memory and to the control state. -/
theorem exec_execEffect {i : Instr} {s t : State} (h : exec i s = .next t) : ExecEffect i s t := by
  cases i with
  | set b a | mod b a | mdi b a | and b a | bor b a | xor b a =>
    cases h
    exact (dataOnly_writeResult _ b a s).execEffect _
  | add b a | sub b a | mul b a | mli b a | div b a | dvi b a | shr b a | asr b a | shl b a | adx b a | sbx b a =>
    cases h
    exact (dataOnly_writeResultEx _ _ b a s).execEffect _
  | sti b a | std b a =>
    cases h
    exact (dataOnly_writeAndStep _ b a s).execEffect _
  | ifb b a | ifc b a | ife b a | ifn b a | ifg b a | ifa b a | ifl b a | ifu b a =>
    exact executeConditional_execEffect rfl h
  | iag a | hwn a =>
    cases h
    exact (dataOnly_writeA a s _).execEffect _
  | jsr a =>
    cases h
    exact withValueA_execEffect a s fun va u => (dataOnly_push_setPc u u.pc va).execEffect _
  | hwq a =>
    cases h
    exact withValueA_execEffect a s fun va u => (dataOnly_hwqWith Config.devices va u).execEffect _
  | int a =>
    cases h
    exact withValueA_execEffect a s fun va u => (ControlChange.int a u va).execEffect
  | ias a =>
    cases h
    exact withValueA_execEffect a s fun va u => (ControlChange.ias a u va).execEffect
  | rfi a =>
    cases h
    exact withValueA_execEffect a s fun _ u => (ControlChange.rfi a u).execEffect
  | iaq a =>
    cases h
    exact withValueA_execEffect a s fun va u => (ControlChange.iaq a u (va == 0#16)).execEffect
  | hwi a =>
    cases h
    exact withValueA_execEffect a s fun va u => (ControlChange.hwi a u va).execEffect

/-- R222, R224, everything HWI can do. -/
theorem hwiWith_cases (ndev : Nat) (react : Nat → DeviceCall → View → Reaction) (va : Word) (s : State) :
    (ndev ≤ va.toNat ∧ hwiWith ndev react va s = s) ∨
    (va.toNat < ndev ∧ hwiWith ndev react va s = (callDevice react (.interrupt va.toNat) s).2.setCycles
      ((callDevice react (.interrupt va.toNat) s).2.cycles + (callDevice react (.interrupt va.toNat) s).1)) := by
  by_cases hv : va.toNat < ndev
  · exact .inr ⟨hv, by simp [hwiWith, hv]⟩
  · exact .inl ⟨by omega, by simp [hwiWith, hv]⟩

/-- D29: a device called by HWI does not reach IE. -/
theorem hwiWith_ie (ndev : Nat) (react : Nat → DeviceCall → View → Reaction) (va : Word) (s : State) :
    (hwiWith ndev react va s).ie = s.ie := by
  rcases hwiWith_cases ndev react va s with ⟨-, e⟩ | ⟨-, e⟩ <;> rw [e]
  exact callDevice_ie react (.interrupt va.toNat) s

theorem requestInterrupt_ia (m : Word) (s : State) : (requestInterrupt m s).ia = s.ia := by
  rcases requestInterrupt_cases m s with ⟨-, e⟩ | ⟨-, -, e⟩ | ⟨-, -, e⟩ <;> rw [e] <;> rfl

theorem ControlChange.ia_eq {i : Instr} {u t : State} (h : ControlChange i u t) (hias : ∀ a, i ≠ .ias a)
    (hhwi : ∀ a, i ≠ .hwi a) : t.ia = u.ia := by
  cases h with
  | unchanged | skip | freeze | rfi | iaq => rfl
  | int a u m => exact requestInterrupt_ia m u
  | ias a => exact absurd rfl (hias a)
  | hwi a => exact absurd rfl (hhwi a)

theorem ControlChange.ie_eq {i : Instr} {u t : State} (h : ControlChange i u t) (hrfi : ∀ a, i ≠ .rfi a)
    (hiaq : ∀ a, i ≠ .iaq a) : t.ie = u.ie := by
  cases h with
  | unchanged | skip | freeze | ias => rfl
  | int a u m => exact (requestInterrupt_sameInside m u).ie
  | hwi a u va => exact hwiWith_ie _ _ va u
  | rfi a => exact absurd rfl (hrfi a)
  | iaq a => exact absurd rfl (hiaq a)

/-- Settles O46: the operands and writes touch no control state, and of the changes that remain only those of IAS and HWI
reach IA, only those of RFI and IAQ reach IE. -/
theorem onlyNamedInstructionsWriteIaAndIe : Obligations.OnlyNamedInstructionsWriteIaAndIe := by
  intro i s t h
  obtain ⟨u, hu, hc⟩ := exec_execEffect h
  exact ⟨fun hias hhwi => (hc.ia_eq hias hhwi).trans hu.control.ia,
    fun hrfi hiaq => (hc.ie_eq hrfi hiaq).trans hu.control.ie⟩

/-! ### The step-boundary invariant (R37) -/

theorem State.Inv.inside {s : State} (h : s.Inv) : InvInside s := ⟨h.mem, h.queue, h.wakes⟩

theorem DataOnly.inv {s t : State} (h : DataOnly s t) (hs : s.Inv) : t.Inv where
  mem := h.mem hs.mem
  queue := h.control.iq ▸ hs.queue
  wakes := h.control.wq ▸ hs.wakes
  notFlushing := h.control.flushing.trans hs.notFlushing
  noDeferred := h.control.deferred.trans hs.noDeferred

/-- R258: at a step boundary the operations of the surroundings keep the invariant. -/
theorem State.Inv.after_applyActions {s : State} (h : s.Inv) (acts : List Action) : (applyActions acts s).Inv := by
  obtain ⟨hmem, hqueue, hwakes⟩ := applyActions_inv h.inside acts
  exact ⟨hmem, hqueue, hwakes, (applyActions_sameInside acts s).flushing.trans h.notFlushing,
    (applyActions_deferred h.notFlushing acts).trans h.noDeferred⟩

/-- R256: so does a callback, whatever the device does. -/
theorem State.Inv.after_callDevice {s : State} (h : s.Inv) (react : Nat → DeviceCall → View → Reaction)
    (call : DeviceCall) : (callDevice react call s).2.Inv := by
  have hstart : (callStart react call s).Inv := ⟨h.mem, h.queue, h.wakes, h.notFlushing, h.noDeferred⟩
  exact hstart.after_applyActions _

theorem State.Inv.after_hwiWith {s : State} (h : s.Inv) (ndev : Nat) (react : Nat → DeviceCall → View → Reaction)
    (va : Word) : (hwiWith ndev react va s).Inv := by
  rcases hwiWith_cases ndev react va s with ⟨-, e⟩ | ⟨-, e⟩ <;> rw [e]
  · exact h
  · obtain ⟨hmem, hqueue, hwakes, hflush, hdef⟩ := h.after_callDevice react (.interrupt va.toNat)
    exact ⟨hmem, hqueue, hwakes, hflush, hdef⟩

/-- R241 is one of the operations of R258. -/
theorem State.Inv.after_requestInterrupt {s : State} (h : s.Inv) (m : Word) : (requestInterrupt m s).Inv :=
  h.after_applyActions [.interrupt m]

theorem ControlChange.inv {i : Instr} {u t : State} (h : ControlChange i u t) (hu : u.Inv) : t.Inv := by
  cases h with
  | unchanged | skip | freeze | ias | rfi | iaq => exact ⟨hu.mem, hu.queue, hu.wakes, hu.notFlushing, hu.noDeferred⟩
  | int a u m => exact hu.after_requestInterrupt m
  | hwi a u va => exact hu.after_hwiWith _ _ va

/-- Every instruction keeps the invariant. -/
theorem State.Inv.after_exec {i : Instr} {s t : State} (hs : s.Inv) (h : exec i s = .next t) : t.Inv := by
  obtain ⟨u, hu, hc⟩ := exec_execEffect h
  exact hc.inv (hu.inv hs)

/-- R246: taking an interrupt keeps the invariant. -/
theorem State.Inv.after_takeInterrupt {s : State} (h : s.Inv) (m : Word) : (takeInterrupt m s).Inv :=
  ⟨Memory.write_wf (Memory.write_wf h.mem _ _) _ _, h.queue, h.wakes, h.notFlushing, h.noDeferred⟩

/-- R244: delivery keeps the invariant; the queue only gets shorter. -/
theorem State.Inv.after_deliverInterrupts {s : State} (h : s.Inv) : (deliverInterrupts s).Inv := by
  have shorter : ∀ q : List Word, q.length ≤ s.iq.length → (s.setIq q).Inv := fun q hq =>
    ⟨h.mem, hq.trans h.queue, h.wakes, h.notFlushing, h.noDeferred⟩
  rcases deliverInterrupts_cases s with ⟨-, e⟩ | ⟨-, -, e⟩ | ⟨-, -, -, e⟩ | ⟨m, rest, -, -, hq, e⟩ <;> rw [e]
  · exact h
  · exact shorter [] (Nat.zero_le _)
  · exact h
  · exact (shorter rest (by simp [hq])).after_takeInterrupt m

/-- R254: a flush begins and ends at a step boundary. -/
theorem State.Inv.after_flush {s : State} (h : s.Inv) : (flush s).Inv := by
  obtain ⟨⟨hmem, hqueue, hwakes⟩, -, -, -, hflush, hdef⟩ := flushWith_keeps Config.deviceReaction h.inside
  exact ⟨hmem, hqueue, hwakes, hflush, hdef⟩

theorem State.Inv.after_endStep {s : State} (h : s.Inv) : (endStep s).Inv := by
  have hT : (advanceT s).Inv := ⟨h.mem, h.queue, h.wakes, h.notFlushing, h.noDeferred⟩
  rcases endStep_cases s with ⟨-, e⟩ | ⟨-, e⟩ <;> rw [e]
  · exact h
  · exact hT.after_flush

/-! ### Everything a step can do -/

/-- Lines 6 to 14 of R100: the instruction, then the end of the step. -/
theorem runInstr_next {i : Instr} {s t : State} (h : runInstr i s = .next t) :
    ∃ u, exec i (beginInstr i s) = .next u ∧ t = endStep u := by
  unfold runInstr at h
  split at h
  · next u hu =>
    cases h
    exact ⟨u, hu, rfl⟩
  · cases h
  · cases h

/-- Lines 3 to 14 of R100: an illegal word, or an instruction. -/
theorem runningStep_next {s t : State} (h : runningStep s = .next t) :
    (∃ e, fetch (deliverInterrupts (startStep s)) = .error e ∧
      t = raiseIllegalInstruction (deliverInterrupts (startStep s))) ∨
    (∃ i u, fetch (deliverInterrupts (startStep s)) = .ok i ∧
      exec i (beginInstr i (deliverInterrupts (startStep s))) = .next u ∧ t = endStep u) := by
  simp only [runningStep] at h
  split at h
  · next e he =>
    cases h
    exact .inl ⟨e, he, rfl⟩
  · next i hi =>
    obtain ⟨u, hu, ht⟩ := runInstr_next h
    exact .inr ⟨i, u, hi, hu, ht⟩

/-- R100, R101: a frozen step, or a running one. -/
theorem step_cases (s : State) :
    (s.cpuState = .running ∧ step s = runningStep s) ∨
    (s.cpuState ≠ .running ∧ step s = .next (frozenStep s)) := by
  unfold step
  cases h : s.cpuState with
  | running => exact .inl ⟨rfl, rfl⟩
  | errorIllegalInstruction => exact .inr ⟨by simp, rfl⟩
  | errorInterruptQueueFilled => exact .inr ⟨by simp, rfl⟩

theorem State.Inv.after_runningStep {s t : State} (hs : s.Inv) (h : runningStep s = .next t) : t.Inv := by
  have hstart : (startStep s).Inv := ⟨hs.mem, hs.queue, hs.wakes, hs.notFlushing, hs.noDeferred⟩
  obtain ⟨hmem, hqueue, hwakes, hflush, hdef⟩ := hstart.after_deliverInterrupts
  rcases runningStep_next h with ⟨e, -, rfl⟩ | ⟨i, u, -, hu, rfl⟩
  · exact ⟨hmem, hqueue, hwakes, hflush, hdef⟩
  · have hbegin : (beginInstr i (deliverInterrupts (startStep s))).Inv := ⟨hmem, hqueue, hwakes, hflush, hdef⟩
    exact (hbegin.after_exec hu).after_endStep

/-- Settles O58: every part of a running step keeps the invariant, and a frozen step changes only the step's outputs. -/
theorem everyStepKeepsTheInvariant : Obligations.EveryStepKeepsTheInvariant := by
  intro s t hs h
  rcases step_cases s with ⟨hrun, e⟩ | ⟨-, e⟩ <;> rw [e] at h
  · exact ⟨hs.after_runningStep h, fun hfrozen => absurd hrun hfrozen⟩
  · cases h
    exact ⟨⟨hs.mem, hs.queue, hs.wakes, hs.notFlushing, hs.noDeferred⟩, fun _ => rfl⟩

/-! ### The frame of the operators that write `b` -/

/-- R114, R119: resolving the operands and writing the referent of `b` keeps the frame. -/
theorem writeResult_frameB (f : Word → Word → Word) (b : OperandB) (a : OperandA) (s : State) :
    FrameB b a s (writeResult f b a s) where
  regs g hg := by simp only [writeResult, writeRef_reg _ _ hg, resolveBoth_state, State.reg_setSp]
  sp hsp := by simp only [writeResult, writeRef_sp _ _ hsp, resolveBoth_state, State.setSp_sp]
  pc hpc := by simp only [writeResult, writeRef_pc _ _ hpc, resolveBoth_state, State.setSp_pc]
  mem x hx := by simp only [writeResult, writeRef_read _ _ hx, resolveBoth_state, State.setSp_mem]
  control := (dataOnly_writeResult f b a s).control

theorem writeResult_ex (f : Word → Word → Word) {b : OperandB} {a : OperandA} {s : State}
    (h : (resolveBoth b a s).refB ≠ .ex) : (writeResult f b a s).ex = s.ex := by
  simp only [writeResult, writeRef_ex _ _ h, resolveBoth_state, State.setSp_ex]

/-- R120: EX, written second, is outside the frame. -/
theorem writeResultEx_frameB (f e : Word → Word → Word) (b : OperandB) (a : OperandA) (s : State) :
    FrameB b a s (writeResultEx f e b a s) := by
  obtain ⟨hregs, hsp, hpc, hmem, -⟩ := writeResult_frameB f b a s
  exact ⟨hregs, hsp, hpc, hmem, (dataOnly_writeResultEx f e b a s).control⟩

/-- The operators that write `b` alone are of one shape. -/
theorem exec_of_mem_writesBOnly {i : Instr} {b : OperandB} {a : OperandA} (h : i ∈ writesBOnly b a) (s : State) :
    ∃ f, exec i s = .next (writeResult f b a s) := by
  simp only [writesBOnly, List.mem_cons, List.not_mem_nil, or_false] at h
  rcases h with rfl | rfl | rfl | rfl | rfl | rfl <;> exact ⟨_, rfl⟩

/-- The operators that write `b` and EX are of one shape; ADX and SBX take the old EX into their functions. -/
theorem exec_of_mem_writesEx {i : Instr} {b : OperandB} {a : OperandA} (h : i ∈ writesEx b a) (s : State) :
    ∃ f e, exec i s = .next (writeResultEx f e b a s) := by
  simp only [writesEx, List.mem_cons, List.not_mem_nil, or_false] at h
  rcases h with rfl | rfl | rfl | rfl | rfl | rfl | rfl | rfl | rfl | rfl | rfl <;> exact ⟨_, _, rfl⟩

/-- Settles O28, from the frame of each of the two shapes. -/
theorem frameOfNormalOperators : Obligations.FrameOfNormalOperators := by
  refine fun b a s t => ⟨fun i hi h => ?_, fun i hi h => ?_⟩
  · obtain ⟨f, e⟩ := exec_of_mem_writesBOnly hi s
    cases e.symm.trans h
    exact ⟨writeResult_frameB f b a s, writeResult_ex f⟩
  · obtain ⟨f, g, e⟩ := exec_of_mem_writesEx hi s
    cases e.symm.trans h
    exact writeResultEx_frameB f g b a s

/-! ### Reset (R36) -/

theorem reset_inv : State.reset.Inv := ⟨rfl, Nat.zero_le _, List.Pairwise.nil, rfl, rfl⟩

theorem reset_getNamed (r : RegName) : State.reset.getNamed r = 0#16 := by
  cases r with
  | general g => cases g <;> rfl
  | pc | sp | ex | ia => rfl

/-- Every cell of the all-zero image is unlisted (log 2). -/
theorem reset_read (addr : Word) : State.reset.mem.read addr = 0#16 := by
  show (Memory.unlisted ++ Memory.unlisted : BitVec (8 + 8)) = 0#16
  decide

/-- Settles O57: the invariant, the registers by name, and the other fields as they are set. -/
theorem resetMeetsTheInvariant : Obligations.ResetMeetsTheInvariant :=
  ⟨reset_inv, reset_getNamed, rfl, rfl, rfl, rfl, rfl, rfl, reset_read⟩

end Sys2Proof.Machine
end

section
/-! SUPPORT. The statements of `20_memory.md`: a word written reads back (R50), and the canonical form determines the data. -/

namespace Sys2Proof.Machine

/-- Settles O6, from the three laws of a write. -/
theorem memoryReadsWhatWasWritten : Obligations.MemoryReadsWhatWasWritten :=
  fun m a v hm =>
    ⟨Memory.read_write_same hm a v, fun _ hx => Memory.read_write_other m hx v, Memory.write_wf hm a v⟩

/-! ### What the cells of a rising list say -/

theorem cellAt_of_mem {l : List Host.Cell} (hl : Rising l) {p : Host.Cell} (hp : p ∈ l) : cellAt l p.1 = p.2 := by
  induction l with
  | nil => cases hp
  | cons q l ih =>
    obtain ⟨hq, hrest⟩ := List.pairwise_cons.1 hl
    rcases List.mem_cons.1 hp with rfl | hp
    · exact if_pos rfl
    · exact (if_neg (hq p hp).ne).trans (ih hrest hp)

theorem mem_of_cellAt_ne_unlisted {l : List Host.Cell} {k : Nat} (h : cellAt l k ≠ Memory.unlisted) :
    (k, cellAt l k) ∈ l := by
  induction l with
  | nil => exact absurd rfl h
  | cons q l ih =>
    unfold cellAt at h ⊢
    split at h
    · next hq => subst hq; simp
    · next hq => simpa [hq] using .inr (ih h)

/-! ### Words and cells -/

/-- Log 1: the low byte of a word stands in its even cell. -/
theorem Memory.read_low (m : Memory) (a : Word) : (m.read a).extractLsb' 0 8 = cellAt m.cells (2 * a.toNat) :=
  BitVec.extractLsb'_append_eq_right

/-- Log 1: the high byte of a word stands in its odd cell. -/
theorem Memory.read_high (m : Memory) (a : Word) : (m.read a).extractLsb' 8 8 = cellAt m.cells (2 * a.toNat + 1) :=
  BitVec.extractLsb'_append_eq_left

/-- Log 1: a cell in range is one of the two of some word. -/
theorem exists_word_of_cell {k : Nat} (hk : k < 131072) : ∃ a : Word, k = 2 * a.toNat ∨ k = 2 * a.toNat + 1 := by
  refine ⟨BitVec.ofNat 16 (k / 2), ?_⟩
  rw [BitVec.toNat_ofNat]
  omega

theorem Memory.cellAt_eq_of_read_eq {m m' : Memory} (h : ∀ a, m.read a = m'.read a) {k : Nat} (hk : k < 131072) :
    cellAt m.cells k = cellAt m'.cells k := by
  obtain ⟨a, rfl | rfl⟩ := exists_word_of_cell hk
  · rw [← Memory.read_low, ← Memory.read_low, h]
  · rw [← Memory.read_high, ← Memory.read_high, h]

/-! ### The canonical form determines the data -/

/-- Every listed cell is in range and not what an unlisted one reads as, so a memory that reads the same lists it too. -/
theorem Memory.cells_subset_of_read_eq {m m' : Memory} (hm : m.wf = true) (h : ∀ a, m.read a = m'.read a) :
    m.cells ⊆ m'.cells := by
  obtain ⟨hrise, hcells⟩ := m.wf_iff.1 hm
  intro p hp
  obtain ⟨hrange, hlisted⟩ := hcells p hp
  have hcell : cellAt m'.cells p.1 = p.2 := by
    rw [← Memory.cellAt_eq_of_read_eq h hrange, cellAt_of_mem hrise hp]
  have hmem := mem_of_cellAt_ne_unlisted (hcell ▸ hlisted)
  rwa [hcell] at hmem

/-- Settles O7: each memory lists the other's cells, and a rising list is determined by its members. -/
theorem equalContentsAreEqualMemories : Obligations.EqualContentsAreEqualMemories := by
  intro m m' hm hm' h
  have hcells : m.cells = m'.cells :=
    List.Subset.antisymm_of_pairwise (m.wf_iff.1 hm).1 (m'.wf_iff.1 hm').1
      (Memory.cells_subset_of_read_eq hm h) (Memory.cells_subset_of_read_eq hm' fun a => (h a).symm)
  cases m; cases m'; exact congrArg Memory.mk hcells

end Sys2Proof.Machine
end

section
/-! SUPPORT. The statements of `30_encoding.md`: encode and decode are inverse to each other (R81), the illegal words (R78),
and what the first word of an instruction decides (R70, R75). -/

namespace Sys2Proof.Machine

/-! ### The fields of a word put together -/

@[simp] theorem fieldA_fields (x : BitVec 6) (y z : BitVec 5) : fieldA (x ++ y ++ z) = x := by
  have hy := y.isLt
  have hz := z.isLt
  apply BitVec.eq_of_toNat_eq
  rw [fieldA_toNat, fields_toNat]
  omega

@[simp] theorem fieldB_fields (x : BitVec 6) (y z : BitVec 5) : fieldB (x ++ y ++ z) = y := by
  have hy := y.isLt
  have hz := z.isLt
  apply BitVec.eq_of_toNat_eq
  rw [fieldB_toNat, fields_toNat]
  omega

@[simp] theorem fieldO_fields (x : BitVec 6) (y z : BitVec 5) : fieldO (x ++ y ++ z) = z := by
  have hz := z.isLt
  apply BitVec.eq_of_toNat_eq
  rw [fieldO_toNat, fields_toNat]
  omega

/-! ### The shared modes (R73, R74) -/

section
variable {α : Type} (stack : α) (mode : Mode → α)

theorem decodeField_stack (ws : List Word) : decodeField stack mode 0x18#5 ws = .ok (stack, ws) := rfl

/-- R81 for a shared mode. -/
theorem decodeField_field (m : Mode) (rest : List Word) :
    decodeField stack mode m.field (m.nextWord ++ rest) = .ok (mode m, rest) := by
  cases m with
  | reg r | ind r => cases r <;> rfl
  | indNext r nw =>
    simp only [Mode.field]
    cases r <;> rfl
  | peek | pick _ | sp | pc | ex | memNext _ | next _ => rfl

theorem decodeField_field_nil {m : Mode} (h : m.nextWord ≠ []) :
    decodeField stack mode m.field [] = .error .truncated := by
  cases m with
  | indNext r nw =>
    simp only [Mode.field]
    cases r <;> rfl
  | pick _ | memNext _ | next _ => rfl
  | reg _ | ind _ | peek | sp | pc | ex => exact absurd rfl h

end

/-- R75: a shared mode takes no next word, or its field stands for one mode for each next word. -/
theorem mode_nextWord_cases (m : Mode) :
    m.nextWord = [] ∨
    (m.nextWord ≠ [] ∧ ∃ k : Word → Mode, ∀ nw, (k nw).field = m.field ∧ (k nw).nextWord = [nw]) := by
  cases m with
  | reg _ | ind _ | peek | sp | pc | ex => exact .inl rfl
  | indNext r _ => exact .inr ⟨List.cons_ne_nil _ _, .indNext r, fun _ => ⟨rfl, rfl⟩⟩
  | pick _ => exact .inr ⟨List.cons_ne_nil _ _, .pick, fun _ => ⟨rfl, rfl⟩⟩
  | memNext _ => exact .inr ⟨List.cons_ne_nil _ _, .memNext, fun _ => ⟨rfl, rfl⟩⟩
  | next _ => exact .inr ⟨List.cons_ne_nil _ _, .next, fun _ => ⟨rfl, rfl⟩⟩

/-- A shared mode for each field value but 0x18, with 0 for a next word. -/
def sampleModes : List Mode :=
  regOrder.map .reg ++ regOrder.map .ind ++ regOrder.map (.indNext · 0#16) ++
    [.peek, .pick 0#16, .sp, .pc, .ex, .memNext 0#16, .next 0#16]

/-- R73, R74: no field value but 0x18 is left without a shared mode. -/
theorem exists_mode_of_field {f : BitVec 5} (h : f ≠ 0x18#5) : ∃ m : Mode, m.field = f := by
  have table : ∀ f : BitVec 5, f ≠ 0x18#5 → ∃ m ∈ sampleModes, m.field = f := by decide
  obtain ⟨m, -, hm⟩ := table f h
  exact ⟨m, hm⟩

section
variable {α : Type} {stack : α} {mode : Mode → α}

/-- R73, R74, everything a 5-bit field can decode to: no bit of the field and no next word is dropped. -/
theorem decodeField_ok {f : BitVec 5} {ws rest : List Word} {x : α}
    (h : decodeField stack mode f ws = .ok (x, rest)) :
    (f = 0x18#5 ∧ x = stack ∧ ws = rest) ∨ ∃ m, m.field = f ∧ x = mode m ∧ ws = m.nextWord ++ rest := by
  by_cases hf : f = 0x18#5
  · subst hf
    cases h
    exact .inl ⟨rfl, rfl, rfl⟩
  · obtain ⟨m, rfl⟩ := exists_mode_of_field hf
    rcases mode_nextWord_cases m with hm | ⟨hm, k, hk⟩
    · have hdec := decodeField_field stack mode m ws
      rw [hm, List.nil_append, h] at hdec
      cases hdec
      exact .inr ⟨m, rfl, rfl, by simp [hm]⟩
    · cases ws with
      | nil => rw [decodeField_field_nil stack mode hm] at h; cases h
      | cons nw ws =>
        obtain ⟨hfield, hnext⟩ := hk nw
        have hdec := decodeField_field stack mode (k nw) ws
        rw [hfield, hnext, List.singleton_append, h] at hdec
        cases hdec
        exact .inr ⟨k nw, hfield, rfl, by simp [hnext]⟩

/-- R70: with a word at hand every 5-bit field decodes. -/
theorem decodeField_total (f : BitVec 5) (nw : Word) (ws : List Word) :
    ∃ x rest, decodeField stack mode f (nw :: ws) = .ok (x, rest) := by
  by_cases hf : f = 0x18#5
  · exact ⟨stack, nw :: ws, hf ▸ decodeField_stack stack mode _⟩
  · obtain ⟨m, rfl⟩ := exists_mode_of_field hf
    rcases mode_nextWord_cases m with hm | ⟨-, k, hk⟩
    · have hdec := decodeField_field stack mode m (nw :: ws)
      rw [hm] at hdec
      exact ⟨_, _, hdec⟩
    · obtain ⟨hfield, hnext⟩ := hk nw
      have hdec := decodeField_field stack mode (k nw) ws
      rw [hfield, hnext] at hdec
      exact ⟨_, _, hdec⟩

end

/-- R75: `extra` of a shared mode is computed from its field. -/
theorem mode_extraOfField (m : Mode) : extraOfField m.field.toNat = m.extra := by
  cases m with
  | reg r | ind r | indNext r _ => cases r <;> rfl
  | peek | pick _ | sp | pc | ex | memNext _ | next _ => rfl

/-! ### The operand `a` (R73) -/

theorem lit_wellFormed_iff (v : Word) : (OperandA.lit v).wellFormed = true ↔ v = 0xFFFF#16 ∨ v.toNat ≤ 30 := by
  simp [OperandA.wellFormed]

/-- R73: the fields of the immediate literals are 0x20 and up. -/
theorem lit_field_ge {v : Word} (h : (OperandA.lit v).wellFormed = true) : 0x20 ≤ (OperandA.lit v).field.toNat := by
  rw [OperandA.field]
  rcases (lit_wellFormed_iff v).1 h with rfl | h
  · decide
  · bv_omega

/-- R73: the decoder reads the value of an immediate literal back from its field. -/
theorem lit_of_field {v : Word} (h : (OperandA.lit v).wellFormed = true) :
    (OperandA.lit v).field.setWidth 16 - 0x21#16 = v := by
  rw [OperandA.field]
  rcases (lit_wellFormed_iff v).1 h with rfl | h
  · decide
  · bv_omega

theorem setWidth_low {f : BitVec 6} (h : f.toNat < 0x20) : (f.extractLsb' 0 5).setWidth 6 = f := by
  apply BitVec.eq_of_toNat_eq
  simp only [BitVec.toNat_setWidth, BitVec.extractLsb'_toNat, Nat.shiftRight_zero]
  omega

theorem decodeA_of_lt {f : BitVec 6} (h : f.toNat < 0x20) (ws : List Word) :
    decodeA f ws = decodeField .pop .mode (f.extractLsb' 0 5) ws := if_pos h

theorem decodeA_of_le {f : BitVec 6} (h : 0x20 ≤ f.toNat) (ws : List Word) :
    decodeA f ws = .ok (.lit (f.setWidth 16 - 0x21#16), ws) := if_neg h.not_gt

/-- R73: below 0x20 the 6-bit field is the 5-bit one. -/
theorem decodeA_setWidth (f : BitVec 5) (ws : List Word) :
    decodeA (f.setWidth 6) ws = decodeField .pop .mode f ws := by
  have hlt : (f.setWidth 6).toNat < 0x20 := by bv_omega
  have hlow : (f.setWidth 6).extractLsb' 0 5 = f := by
    revert f; decide
  rw [decodeA_of_lt hlt, hlow]

/-- R81 for the operand `a`. -/
theorem decodeA_field {a : OperandA} (h : a.wellFormed = true) (rest : List Word) :
    decodeA a.field (a.nextWord ++ rest) = .ok (a, rest) := by
  cases a with
  | mode m => exact (decodeA_setWidth m.field _).trans (decodeField_field _ _ m rest)
  | pop => rfl
  | lit v =>
    rw [decodeA_of_le (lit_field_ge h), lit_of_field h]
    rfl

/-- R73: what a 6-bit field decodes to. -/
theorem decodeA_ok {f : BitVec 6} {ws rest : List Word} {a : OperandA} (h : decodeA f ws = .ok (a, rest)) :
    a.wellFormed = true ∧ a.field = f ∧ ws = a.nextWord ++ rest := by
  rcases Nat.lt_or_ge f.toNat 0x20 with hf | hf
  · have hwide := setWidth_low hf
    rw [decodeA_of_lt hf] at h
    rcases decodeField_ok h with ⟨hstack, rfl, rfl⟩ | ⟨m, hm, rfl, rfl⟩
    · rw [hstack] at hwide
      exact ⟨rfl, hwide, rfl⟩
    · rw [← hm] at hwide
      exact ⟨rfl, hwide, rfl⟩
  · rw [decodeA_of_le hf] at h
    cases h
    refine ⟨?_, ?_, rfl⟩
    · rw [lit_wellFormed_iff]
      bv_omega
    · rw [OperandA.field]
      bv_omega

theorem decodeA_total (f : BitVec 6) (nw : Word) (ws : List Word) : ∃ a rest, decodeA f (nw :: ws) = .ok (a, rest) := by
  rcases Nat.lt_or_ge f.toNat 0x20 with hf | hf
  · rw [decodeA_of_lt hf]
    exact decodeField_total _ nw ws
  · exact ⟨_, _, decodeA_of_le hf _⟩

/-- R75: `extra` of `a` is computed from its field. -/
theorem operandA_extraOfField {a : OperandA} (h : a.wellFormed = true) :
    extraOfField a.field.toNat = a.extra := by
  cases a with
  | mode m =>
    have hwide : (m.field.setWidth 6).toNat = m.field.toNat := by bv_omega
    exact (congrArg extraOfField hwide).trans (mode_extraOfField m)
  | pop => rfl
  | lit v =>
    have hge := lit_field_ge h
    exact if_neg (by omega)

/-! ### The operand `b` (R74) -/

/-- R81 for the operand `b`. -/
theorem decodeB_field (b : OperandB) (rest : List Word) : decodeB b.field (b.nextWord ++ rest) = .ok (b, rest) := by
  cases b with
  | mode m => exact decodeField_field _ _ m rest
  | push => rfl

/-- R74: what a 5-bit field decodes to. -/
theorem decodeB_ok {f : BitVec 5} {ws rest : List Word} {b : OperandB} (h : decodeB f ws = .ok (b, rest)) :
    b.field = f ∧ ws = b.nextWord ++ rest := by
  rcases decodeField_ok h with ⟨rfl, rfl, rfl⟩ | ⟨m, rfl, rfl, rfl⟩ <;> exact ⟨rfl, rfl⟩

theorem decodeB_total (f : BitVec 5) (nw : Word) (ws : List Word) : ∃ b rest, decodeB f (nw :: ws) = .ok (b, rest) :=
  decodeField_total f nw ws

/-- R75: `extra` of `b` is computed from its field. -/
theorem operandB_extraOfField (b : OperandB) : extraOfField b.field.toNat = b.extra := by
  cases b with
  | mode m => exact mode_extraOfField m
  | push => rfl

/-! ### The operators (R76, R77) -/

/-- R76: the encoder gives a normal operator the number the decoder knows it by. -/
theorem encode_of_opcNormal {o : BitVec 5} {mk : OperandB → OperandA → Instr} (h : opcNormal o = some mk)
    (b : OperandB) (a : OperandA) : encode (mk b a) = encodeNormal o b a := by
  have hself : o = BitVec.ofNat 5 o.toNat := by simp
  rw [hself]
  unfold opcNormal at h
  split at h
  all_goals cases h
  all_goals next ho => rw [ho]; rfl

/-- R77: the encoder gives a special operator the number the decoder knows it by. -/
theorem encode_of_opcSpecial {so : BitVec 5} {mk : OperandA → Instr} (h : opcSpecial so = some mk)
    (a : OperandA) : encode (mk a) = encodeSpecial so a := by
  have hself : so = BitVec.ofNat 5 so.toNat := by simp
  rw [hself]
  unfold opcSpecial at h
  split at h
  all_goals cases h
  all_goals next ho => rw [ho]; rfl

/-- R76, R77: every instruction is encoded in one of the two formats, under a number the decoder knows its operator by. -/
theorem encode_cases (i : Instr) :
    (∃ o b a mk, encode i = encodeNormal o b a ∧ opcNormal o = some mk ∧ i = mk b a) ∨
    (∃ so a mk, encode i = encodeSpecial so a ∧ opcSpecial so = some mk ∧ i = mk a) := by
  cases i with
  | set | add | sub | mul | mli | div | dvi | mod | mdi | and | bor | xor | shr | asr | shl | ifb | ifc | ife | ifn
  | ifg | ifa | ifl | ifu | adx | sbx | sti | std => exact .inl ⟨_, _, _, _, rfl, rfl, rfl⟩
  | jsr | int | iag | ias | rfi | iaq | hwn | hwq | hwi => exact .inr ⟨_, _, _, rfl, rfl, rfl⟩

theorem opcNormal_eq_none_iff (o : BitVec 5) :
    opcNormal o = none ↔ o.toNat = 0 ∨ o.toNat = 0x18 ∨ o.toNat = 0x19 ∨ o.toNat = 0x1c ∨ o.toNat = 0x1d := by
  rw [← Option.isNone_iff_eq_none]
  revert o; decide

theorem opcSpecial_eq_none_iff (so : BitVec 5) :
    opcSpecial so = none ↔ so.toNat = 0 ∨ (0x02 ≤ so.toNat ∧ so.toNat ≤ 0x07) ∨
      (0x0d ≤ so.toNat ∧ so.toNat ≤ 0x0f) ∨ 0x13 ≤ so.toNat := by
  rw [← Option.isNone_iff_eq_none]
  revert so; decide

/-! ### Everything the decoder can do -/

/-- The two ways for a word to begin an instruction (R71, R72, R80), with the words after the instruction. -/
inductive DecodesTo (w : Word) (ws : List Word) : Instr → List Word → Prop where
  | special {mk : OperandA → Instr} {a : OperandA} {rest : List Word} :
      fieldO w = 0#5 → opcSpecial (fieldB w) = some mk → decodeA (fieldA w) ws = .ok (a, rest) →
      DecodesTo w ws (mk a) rest
  | normal {mk : OperandB → OperandA → Instr} {a : OperandA} {b : OperandB} {mid rest : List Word} :
      fieldO w ≠ 0#5 → opcNormal (fieldO w) = some mk → decodeA (fieldA w) ws = .ok (a, mid) →
      decodeB (fieldB w) mid = .ok (b, rest) → DecodesTo w ws (mk b a) rest

/-- A word in an operator slot without an operator (R78). -/
def UnmappedSlot (w : Word) : Prop :=
  (fieldO w = 0#5 ∧ opcSpecial (fieldB w) = none) ∨ (fieldO w ≠ 0#5 ∧ opcNormal (fieldO w) = none)

theorem DecodesTo.decode_eq {w : Word} {ws rest : List Word} {i : Instr} (h : DecodesTo w ws i rest) :
    decode (w :: ws) = .ok (i, rest) := by
  cases h with
  | special ho hop ha => simp [decode, ho, hop, ha, Except.map]
  | normal ho hop ha hb => simp [decode, ho, hop, ha, hb, Except.map]

theorem UnmappedSlot.decode_eq {w : Word} (h : UnmappedSlot w) (ws : List Word) : ∃ e, decode (w :: ws) = .error e := by
  rcases h with ⟨ho, hop⟩ | ⟨ho, hop⟩
  · exact ⟨.unmappedSpecialSlot (fieldB w), by simp only [decode, ho, hop, if_true]⟩
  · exact ⟨.unmappedNormalSlot (fieldO w), by simp only [decode, ho, hop, if_false]⟩

theorem decodesTo_of_decode {w : Word} {ws rest : List Word} {i : Instr} (h : decode (w :: ws) = .ok (i, rest)) :
    DecodesTo w ws i rest := by
  simp only [decode] at h
  split at h
  · next ho =>
    split at h
    · cases h
    · next mk hop =>
      cases ha : decodeA (fieldA w) ws with
      | error e => rw [ha] at h; cases h
      | ok p => rw [ha] at h; cases h; exact .special ho hop ha
  · next ho =>
    split at h
    · cases h
    · next mk hop =>
      split at h
      · cases h
      · next a mid ha =>
        cases hb : decodeB (fieldB w) mid with
        | error e => rw [hb] at h; cases h
        | ok p => rw [hb] at h; cases h; exact .normal ho hop ha hb

/-- R70: an operand takes one next word at most, so with two at hand a mapped slot decodes. -/
theorem decodesTo_of_mapped {w : Word} (h : ¬ UnmappedSlot w) (n1 n2 : Word) :
    ∃ i rest, DecodesTo w [n1, n2] i rest := by
  obtain ⟨a, mid, ha⟩ := decodeA_total (fieldA w) n1 [n2]
  by_cases ho : fieldO w = 0#5
  · cases hop : opcSpecial (fieldB w) with
    | none => exact absurd (.inl ⟨ho, hop⟩) h
    | some mk => exact ⟨_, _, .special ho hop ha⟩
  · cases hop : opcNormal (fieldO w) with
    | none => exact absurd (.inr ⟨ho, hop⟩) h
    | some mk =>
      obtain ⟨-, -, hwords⟩ := decodeA_ok ha
      cases mid with
      | nil =>
        have htwo := congrArg List.length hwords
        have hone := Laws.EncodeLength.operandA_length a
        simp only [List.append_nil, List.length_cons, List.length_nil] at htwo
        omega
      | cons nw mid =>
        obtain ⟨b, rest, hb⟩ := decodeB_total (fieldB w) nw mid
        exact ⟨_, _, .normal ho hop ha hb⟩

/-- R78: with two next words at hand a word decodes to nothing exactly when its slot has no operator. -/
theorem decode_error_iff (w n1 n2 : Word) : (∃ e, decode [w, n1, n2] = .error e) ↔ UnmappedSlot w := by
  refine ⟨fun ⟨e, he⟩ => ?_, fun h => h.decode_eq _⟩
  by_contra hmapped
  obtain ⟨i, rest, h⟩ := decodesTo_of_mapped hmapped n1 n2
  rw [h.decode_eq] at he
  cases he

theorem decodeWord_error_iff (w : Word) : (∃ e, decodeWord w = .error e) ↔ UnmappedSlot w := by
  rw [← decode_error_iff w 0#16 0#16, decodeWord]
  cases decode [w, 0#16, 0#16] <;> simp [Except.map]

theorem decodeWord_of_decode {w : Word} {i : Instr} {rest : List Word} (h : decode [w, 0#16, 0#16] = .ok (i, rest)) :
    decodeWord w = .ok i := by
  rw [decodeWord, h]
  rfl

/-! ### Both directions of the round trip (R81) -/

theorem decode_encode {i : Instr} (h : i.wellFormed = true) (rest : List Word) :
    decode (encode i ++ rest) = .ok (i, rest) := by
  rcases encode_cases i with ⟨o, b, a, mk, he, hop, rfl⟩ | ⟨so, a, mk, he, hop, rfl⟩
  · obtain ⟨_, _, hshape⟩ := opcNormal_shape hop
    have ha : a.wellFormed = true := by simpa only [Instr.wellFormed, hshape] using h
    have ho : o ≠ 0#5 := by
      rintro rfl
      cases hop
    rw [he, encodeNormal, List.cons_append, List.append_assoc]
    refine (DecodesTo.normal (a := a) (b := b) (mid := b.nextWord ++ rest) ?_ ?_ ?_ ?_).decode_eq
    · rwa [fieldO_fields]
    · rwa [fieldO_fields]
    · rw [fieldA_fields, decodeA_field ha]
    · rw [fieldB_fields, decodeB_field]
  · obtain ⟨_, _, hshape⟩ := opcSpecial_shape hop
    have ha : a.wellFormed = true := by simpa only [Instr.wellFormed, hshape] using h
    rw [he, encodeSpecial, List.cons_append]
    refine (DecodesTo.special (a := a) ?_ ?_ ?_).decode_eq
    · rw [fieldO_fields]
    · rwa [fieldB_fields]
    · rw [fieldA_fields, decodeA_field ha]

/-- Settles O1: the round trip of the operands inside the fields of the first word, and that word as a number. -/
theorem encodeThenDecodeGivesTheInstruction : Obligations.EncodeThenDecodeGivesTheInstruction := by
  refine ⟨fun i rest h => decode_encode h rest, fun o b a => ?_, fun so a => ?_⟩
  · exact congrArg some (fields_toNat a.field b.field o)
  · have hword := fields_toNat a.field so 0#5
    rw [BitVec.toNat_zero] at hword
    exact congrArg some (hword.trans (Nat.add_zero _))

/-- Settles O2: each operand is its field and its next words, and the word is its three fields. -/
theorem decodedWordsAreTheEncoding : Obligations.DecodedWordsAreTheEncoding := by
  intro ws i rest h
  cases ws with
  | nil => cases h
  | cons w ws =>
    cases decodesTo_of_decode h with
    | special ho hop ha =>
      obtain ⟨_, _, hshape⟩ := opcSpecial_shape hop
      obtain ⟨hwf, hfield, rfl⟩ := decodeA_ok ha
      refine ⟨by simpa only [Instr.wellFormed, hshape] using hwf, ?_⟩
      rw [encode_of_opcSpecial hop, encodeSpecial, hfield, ← ho, fields_append, List.cons_append]
    | normal ho hop ha hb =>
      obtain ⟨_, _, hshape⟩ := opcNormal_shape hop
      obtain ⟨hwf, hfield, rfl⟩ := decodeA_ok ha
      obtain ⟨hfieldB, rfl⟩ := decodeB_ok hb
      refine ⟨by simpa only [Instr.wellFormed, hshape] using hwf, ?_⟩
      rw [encode_of_opcNormal hop, encodeNormal, hfield, hfieldB, fields_append, List.cons_append, List.append_assoc]

/-! ### The illegal words (R78) -/

theorem fieldO_eq_zero_iff (w : Word) : fieldO w = 0#5 ↔ w.toNat % 32 = 0 := by
  simp [← BitVec.toNat_inj, fieldO_toNat]

/-- Settles O3: the operator slots with no entry in the two opcode maps. -/
theorem illegalWordsAreTheUnmappedSlots : Obligations.IllegalWordsAreTheUnmappedSlots := by
  intro w
  rw [decodeWord_error_iff, UnmappedSlot, Ne, fieldO_eq_zero_iff, opcSpecial_eq_none_iff, opcNormal_eq_none_iff,
    fieldO_toNat, fieldB_toNat]
  omega

/-! ### What the first word decides (R70, R75, R80) -/

/-- R70, R75: the length of the encoding, for every instruction. -/
theorem encodeLength_statement (i : Instr) : Laws.EncodeLength.Statement i := by
  rcases encode_cases i with ⟨o, b, a, mk, he, hop, rfl⟩ | ⟨so, a, mk, he, hop, rfl⟩
  · obtain ⟨_, _, hshape⟩ := opcNormal_shape hop
    obtain ⟨ha, hb, -⟩ := hshape b a
    exact Laws.EncodeLength.of_normal he ha hb
  · obtain ⟨_, _, hshape⟩ := opcSpecial_shape hop
    obtain ⟨ha, hb, -⟩ := hshape a
    exact Laws.EncodeLength.of_special he ha hb

section
variable {w : Word} {ws ws' rest rest' : List Word} {i j : Instr}

/-- R75: the length is computed from the first word. -/
theorem DecodesTo.words_eq (h : DecodesTo w ws i rest) : i.words = wordsOfWord w.toNat := by
  rw [wordsOfWord, ← fieldA_toNat, ← fieldB_toNat]
  cases h with
  | special ho hop ha =>
    obtain ⟨_, _, hshape⟩ := opcSpecial_shape hop
    obtain ⟨hwf, hfield, -⟩ := decodeA_ok ha
    rw [if_pos ((fieldO_eq_zero_iff w).1 ho), ← hfield, operandA_extraOfField hwf]
    simp only [Instr.words, hshape]
  | normal ho hop ha hb =>
    obtain ⟨_, _, hshape⟩ := opcNormal_shape hop
    obtain ⟨hwf, hfield, -⟩ := decodeA_ok ha
    obtain ⟨hfieldB, -⟩ := decodeB_ok hb
    rw [if_neg (mt (fieldO_eq_zero_iff w).2 ho), ← hfield, ← hfieldB, operandA_extraOfField hwf,
      operandB_extraOfField]
    simp only [Instr.words, hshape]

/-- R80: the kind and the base cost are the operator's, which the first word gives. -/
theorem DecodesTo.same_kind (h : DecodesTo w ws i rest) (h' : DecodesTo w ws' j rest') :
    i.isConditional = j.isConditional ∧ baseCycles i = baseCycles j := by
  cases h with
  | special ho hop ha =>
    obtain ⟨_, _, hshape⟩ := opcSpecial_shape hop
    cases h' with
    | special _ hop' _ =>
      cases hop.symm.trans hop'
      simp only [hshape, and_self]
    | normal ho' => exact absurd ho ho'
  | normal ho hop ha hb =>
    obtain ⟨_, _, hshape⟩ := opcNormal_shape hop
    cases h' with
    | special ho' => exact absurd ho' ho
    | normal _ hop' _ _ =>
      cases hop.symm.trans hop'
      simp only [hshape, and_self]

/-- R70: the word an instruction is decoded from is the first of its encoding. -/
theorem encode_head_of_decode (h : decode (w :: ws) = .ok (i, rest)) : (encode i).head? = some w := by
  obtain ⟨-, hwords⟩ := decodedWordsAreTheEncoding _ i rest h
  obtain ⟨hlen, hpos, -⟩ := encodeLength_statement i
  cases he : encode i with
  | nil =>
    rw [he, List.length_nil] at hlen
    omega
  | cons v vs =>
    rw [he] at hwords
    cases hwords
    rfl

end

/-- Settles O4: the length by the words consumed; two decodings of one first word go through the same slot. -/
theorem firstWordDecidesEverythingButNextWords : Obligations.FirstWordDecidesEverythingButNextWords := by
  refine ⟨fun w ws i rest h => ⟨(decodesTo_of_decode h).words_eq, ?_⟩, fun w n1 n2 => ?_⟩
  · obtain ⟨-, hwords⟩ := decodedWordsAreTheEncoding _ i rest h
    obtain ⟨hlen, -⟩ := encodeLength_statement i
    rw [← hlen, ← List.length_append, ← hwords, List.length_cons]
  · by_cases hslot : UnmappedSlot w
    · exact .inl ⟨(decodeWord_error_iff w).2 hslot, (decode_error_iff w n1 n2).2 hslot⟩
    · obtain ⟨i, rest, hi⟩ := decodesTo_of_mapped hslot 0#16 0#16
      obtain ⟨j, rest', hj⟩ := decodesTo_of_mapped hslot n1 n2
      obtain ⟨hcond, hcost⟩ := hi.same_kind hj
      exact .inr ⟨i, j, rest', decodeWord_of_decode hi.decode_eq, hj.decode_eq, encode_head_of_decode hi.decode_eq,
        encode_head_of_decode hj.decode_eq, hi.words_eq.trans hj.words_eq.symm, hcond, hcost⟩

/-! ### The decode vectors of `95_test_vectors.md` -/

/-- Settles O5: six closed decodings, each evaluated. -/
theorem decodesSampleWords : Obligations.DecodesSampleWords :=
  ⟨rfl, rfl, rfl, rfl, rfl, rfl⟩

end Sys2Proof.Machine
end

section
/-! SUPPORT. The statements of `40_step_and_operands.md`: what an operand refers to (R111 to R114), reading and writing through a
referent (R118, R119), the stack (R121, R122), and what one step runs (R100, R101). -/

namespace Sys2Proof.Machine

/-! ### The table of `ResolveA` and `ResolveB` (R111, R112) -/

/-- R73, D4: the value of an immediate literal, as an integer and as the decoder computes it. -/
theorem ofInt_field_sub (f : BitVec 6) : BitVec.ofInt 16 ((f.toNat : Int) - 0x21) = f.setWidth 16 - 0x21#16 := by
  apply BitVec.eq_of_toNat_eq
  rw [BitVec.toNat_ofInt]
  bv_omega

/-- Settles O8: the decoded operand has that field and the next word, so each constructor names its line of the table. -/
theorem operandATable : Obligations.OperandATable := by
  intro f nw s
  obtain ⟨a, rest, hdec⟩ := decodeA_total f nw []
  obtain ⟨hwf, rfl, hword⟩ := decodeA_ok hdec
  refine ⟨a, rest, hdec, ?_⟩
  cases a with
  | mode m =>
    cases m with
    | reg r | ind r => cases r <;> rfl
    | indNext r k =>
      obtain ⟨rfl, -⟩ := List.cons.inj hword
      cases r <;> rfl
    | pick k | memNext k | next k =>
      obtain ⟨rfl, -⟩ := List.cons.inj hword
      rfl
    | peek | sp | pc | ex => rfl
  | pop => rfl
  | lit v =>
    have hge := lit_field_ge hwf
    rw [ofInt_field_sub, lit_of_field hwf]
    simp (disch := omega) only [if_neg]
    rfl

/-- R111, R112: a shared mode resolves the same way in both positions. -/
theorem resolveB_mode (m : Mode) (s : State) : resolveB (.mode m) s = resolveA (.mode m) s := rfl

/-- Settles O9: 0x18 is PUSH, and every other field value is that of a shared mode. -/
theorem operandBDiffersInPushOnly : Obligations.OperandBDiffersInPushOnly := by
  intro f nw s
  obtain ⟨b, rest, hdec⟩ := decodeB_total f nw []
  refine ⟨b, rest, hdec, ?_⟩
  rcases decodeField_ok hdec with ⟨rfl, rfl, -⟩ | ⟨m, rfl, rfl, hword⟩
  · exact ⟨fun hne => absurd rfl hne, fun _ => rfl⟩
  · refine ⟨fun _ => ⟨.mode m, ?_, resolveB_mode m s⟩, fun h => ?_⟩
    · rw [decodeA_setWidth, hword, decodeField_field]
    · rw [show m.field = 0x18#5 from BitVec.eq_of_toNat_eq h] at hdec
      cases hdec

/-! ### Reading and writing through a referent (R118, R119) -/

/-- Settles O10, from the laws of a write through a referent. -/
theorem writeThroughReferent : Obligations.WriteThroughReferent := by
  refine ⟨fun s => ⟨fun _ => rfl, rfl, rfl, rfl, fun _ => rfl, fun _ => rfl⟩, fun s r v hm => ?_⟩
  refine ⟨readRef_writeRef hm v, ?_, fun _ => writeRef_reg s v, writeRef_sp s v, writeRef_pc s v, writeRef_ex s v,
    fun _ => writeRef_read s v, writeRef_sameControl s r v⟩
  rintro w rfl
  rfl

/-! ### The order of the two operands (R105, R114) -/

/-- R111: only PEEK and PICK take their address from SP. -/
theorem resolveMode_setSp {m : Mode} (hpeek : m ≠ .peek) (hpick : ∀ nw, m ≠ .pick nw) (s : State) (sp : Word) :
    resolveMode m (s.setSp sp) = resolveMode m s := by
  cases m with
  | peek => exact absurd rfl hpeek
  | pick nw => exact absurd rfl (hpick nw)
  | reg _ | ind _ | indNext _ _ | sp | pc | ex | memNext _ | next _ => rfl

/-- R114: `b` is resolved in the state with the SP that `a` left. -/
theorem resolveBoth_refB (b : OperandB) (a : OperandA) (s : State) :
    (resolveBoth b a s).refB = (resolveB b (s.setSp (spAfterA a s.sp))).1 := by
  simp only [resolveBoth, resolveA_state]

/-- R112, R114: PUSH after POP refers to the slot popped. -/
theorem resolveBoth_push_pop_refB (s : State) : (resolveBoth .push .pop s).refB = .memAt s.sp :=
  congrArg Referent.memAt (BitVec.add_sub_cancel s.sp 1#16)

/-- Settles O11, from the SP change of both operands and the state in which `b` is resolved. -/
theorem operandsResolveInOrder : Obligations.OperandsResolveInOrder := by
  intro b a s
  refine ⟨resolveBoth_state b a s, rfl, rfl, resolveBoth_refB b a s, rfl, resolveBoth_push_pop_refB s, rfl,
    fun _ => rfl, fun m hpeek hpick => ?_⟩
  rw [resolveBoth_refB]
  exact resolveMode_setSp hpeek hpick s _

/-! ### The stack (R121, R122) -/

/-- Settles O45: Push is a write below SP, and Pop reads at SP and raises it. -/
theorem pushAndPop : Obligations.PushAndPop := by
  intro s v hm
  have hread : (s.push v).mem.read (s.sp - 1#16) = v := Memory.read_write_same hm _ v
  have hframe : ∀ x, x ≠ s.sp - 1#16 → (s.push v).mem.read x = s.mem.read x := fun _ hx =>
    Memory.read_write_other s.mem hx v
  have hcontrol : SameControl s (s.push v) :=
    (sameControl_setSp s _).trans (writeRef_sameControl _ (.memAt (s.sp - 1#16)) v)
  exact ⟨rfl, hread, hframe, rfl, rfl, rfl, hcontrol, rfl, hread, BitVec.sub_add_cancel s.sp 1#16⟩

/-! ### SET PUSH, POP (C6) -/

/-- R50: in the canonical form, storing the word already there changes nothing, since equal contents are equal data. -/
theorem Memory.write_read_self {m : Memory} (h : m.wf = true) (a : Word) : m.write a (m.read a) = m := by
  refine equalContentsAreEqualMemories _ m (Memory.write_wf h a _) h fun x => ?_
  by_cases hx : x = a
  · rw [hx, Memory.read_write_same h]
  · exact Memory.read_write_other m hx _

/-- Settles O12: SP goes up and down again, and the word popped is stored where it was. -/
theorem setPushPopChangesNothing : Obligations.SetPushPopChangesNothing := by
  intro s hm
  have hexec : exec (.set .push .pop) s =
      .next ((s.setSp (s.sp + 1#16 - 1#16)).store (s.sp + 1#16 - 1#16) (s.mem.read s.sp)) := rfl
  have hstore : s.store s.sp (s.mem.read s.sp) = s := congrArg s.setMem (Memory.write_read_self hm s.sp)
  rw [hexec, BitVec.add_sub_cancel]
  exact congrArg _ hstore

/-! ### The step (R100, R101) -/

/-- Lines 1 to 5 of R100 in a running block with nothing to deliver. -/
theorem step_of_decode {s : State} {i : Instr} {rest : List Word} (hrun : s.cpuState = .running)
    (hidle : s.iq = [] ∨ s.ie = false)
    (hdec : decode [s.mem.read s.pc, s.mem.read (s.pc + 1#16), s.mem.read (s.pc + 2#16)] = .ok (i, rest)) :
    step s = runInstr i (startStep s) := by
  have hfetch : fetch (startStep s) = .ok i := congrArg (Except.map Prod.fst) hdec
  rcases step_cases s with ⟨-, hstep⟩ | ⟨hfrozen, -⟩
  · have hdeliver : deliverInterrupts (startStep s) = startStep s := deliverInterrupts_idle hidle
    simp only [hstep, runningStep, hdeliver, hfetch]
  · exact absurd hrun hfrozen

/-- Lines 11 to 14 of R100: what is left to do after the instruction depends on its outcome alone. -/
theorem runInstr_of_next {i : Instr} {s t : State} (h : exec i (beginInstr i s) = .next t) :
    runInstr i s = .next (endStep t) := by
  simp only [runInstr, h]

theorem runInstr_of_fault {i : Instr} {s : State} {f : Fault} (h : exec i (beginInstr i s) = .fault f) :
    runInstr i s = .fault f := by
  simp only [runInstr, h]

/-- Settles O50: the step is the instruction on the state at its start, then the end of the step (R107). -/
theorem stepRunsTheDecodedInstruction : Obligations.StepRunsTheDecodedInstruction := by
  intro s i rest hrun hidle hdec u
  have hstep := step_of_decode hrun hidle hdec
  have hbegin : beginInstr i (startStep s) = u := rfl
  rw [← hbegin]
  refine ⟨fun f hf => hstep.trans (runInstr_of_fault hf), fun t ht => ?_⟩
  have hnext : step s = .next (endStep t) := hstep.trans (runInstr_of_next ht)
  rcases endStep_cases t with ⟨hillegal, e⟩ | ⟨hlegal, e⟩ <;> rw [e] at hnext
  · exact ⟨fun _ => hnext, fun h => absurd hillegal h⟩
  · exact ⟨fun h => absurd h hlegal, fun _ => hnext⟩

/-- Settles O53: the frozen step clears the two outputs and nothing else. -/
theorem frozenStepChangesNothing : Obligations.FrozenStepChangesNothing := by
  intro s hfrozen
  rcases step_cases s with ⟨hrun, -⟩ | ⟨-, hstep⟩
  · exact absurd hrun hfrozen
  · exact hstep

end Sys2Proof.Machine
end

section
/-! SUPPORT. The statements of `41_move_arith.md`: what SET moves (R140), and that the exact integers of `Machine/Flags.lean`,
narrowed to words, are the results and EX values of the arithmetic operators (R141 to R151). -/

namespace Sys2Proof.Machine

/-! ### SET (R140) -/

/-- R119: the destination of an operator that writes `b` reads the result, unless it is a literal. -/
theorem writeResult_readRef (f : Word → Word → Word) {b : OperandB} {a : OperandA} {s : State} (hm : s.mem.wf = true)
    (h : ∀ w, (resolveBoth b a s).refB ≠ .lit w) :
    (writeResult f b a s).readRef (resolveBoth b a s).refB = f (resolveBoth b a s).vb (resolveBoth b a s).va :=
  readRef_writeRef ((dataOnly_resolveBoth b a s).mem hm) _ h

/-- Settles O13: SET is the shape that writes `b` alone, with the value of `a` as its result. -/
theorem setMovesA : Obligations.SetMovesA := by
  intro b a s hm r
  exact ⟨writeResult (fun _ va => va) b a s, rfl, writeResult_readRef _ hm, writeResult_frameB _ b a s, writeResult_ex _⟩

/-! ### A word, or two, as the integer narrowed to it (R8, R9) -/

theorem u16_natCast_toNat {m : Nat} (h : m < 65536) : (u16 m).toNat = m := by
  have := u16_toNat m
  omega

theorem u16_natCast_add_hi16 {m : Nat} (h : m < 4294967296) : (u16 m).toNat + 65536 * (hi16 m).toNat = m := by
  have := u16_toNat m
  have := hi16_toNat m
  omega

/-- R9: the two halves side by side are the integer modulo 2^32. -/
theorem hi16_append_u16 (n : Int) : (hi16 n ++ u16 n : BitVec 32) = BitVec.ofInt 32 n := by
  have hlo := u16_toNat n
  have hhi := hi16_toNat n
  apply BitVec.eq_of_toNat_eq
  rw [append_toNat, BitVec.toNat_ofInt]
  omega

/-- R8: `u16` undoes `s16`. -/
theorem u16_s16 (v : Word) : u16 (s16 v) = v := BitVec.ofInt_toInt

/-! ### Sum, difference and products (R141 to R144) -/

/-- Settles O14: the exact sum has 17 bits, so result and EX hold all of it. -/
theorem addGivesSumAndCarry : Obligations.AddGivesSumAndCarry := by
  intro b a s r
  refine ⟨u16 (addExact r.vb r.va), hi16 (addExact r.vb r.va), rfl, ?_⟩
  have hsum : r.vb.toNat + r.va.toNat < 4294967296 := by
    have := r.vb.isLt
    have := r.va.isLt
    omega
  exact u16_natCast_add_hi16 hsum

/-- R142: narrowing the exact difference is subtraction of words. -/
theorem u16_subExact (vb va : Word) : u16 (subExact vb va) = vb - va := by
  have hnarrow := u16_toNat (subExact vb va)
  have hexact : subExact vb va = vb.toNat - va.toNat := rfl
  have := vb.isLt
  have := va.isLt
  apply BitVec.eq_of_toNat_eq
  rw [BitVec.toNat_sub]
  omega

/-- R142: the high half of the exact difference is all ones below zero, else 0. -/
theorem hi16_subExact (vb va : Word) :
    hi16 (subExact vb va) = if vb.toNat < va.toNat then 0xFFFF#16 else 0#16 := by
  have hhigh := hi16_toNat (subExact vb va)
  have hexact : subExact vb va = vb.toNat - va.toNat := rfl
  have := vb.isLt
  have := va.isLt
  apply BitVec.eq_of_toNat_eq
  split
  case isTrue hborrow => show _ = 65535; omega
  case isFalse hnone => show _ = 0; omega

/-- Settles O15, from the two halves of the exact difference. -/
theorem subGivesDifferenceAndBorrow : Obligations.SubGivesDifferenceAndBorrow :=
  fun _ _ _ => ⟨_, _, rfl, u16_subExact _ _, hi16_subExact _ _⟩

/-- R143: the exact unsigned product is that of the two natural numbers. -/
theorem mulExact_eq_natCast (vb va : Word) : mulExact vb va = (vb.toNat * va.toNat : Nat) :=
  (Int.natCast_mul _ _).symm

/-- Settles O16: the exact product of two words is below 2^32, so result and EX hold all of it. -/
theorem mulGivesUnsignedProduct : Obligations.MulGivesUnsignedProduct := by
  intro b a s r
  refine ⟨u16 (mulExact r.vb r.va), hi16 (mulExact r.vb r.va), rfl, ?_⟩
  rw [mulExact_eq_natCast]
  exact u16_natCast_add_hi16 (Nat.mul_lt_mul'' r.vb.isLt r.va.isLt)

/-- R144: the exact signed product fits in a signed word of 32 bits. -/
theorem toInt_ofInt_mliExact (vb va : Word) : (BitVec.ofInt 32 (mliExact vb va)).toInt = mliExact vb va := by
  have hlow : -2 ^ 30 ≤ mliExact vb va := BitVec.le_toInt_mul_toInt
  have hhigh : mliExact vb va ≤ 2 ^ 30 := BitVec.toInt_mul_toInt_le
  apply BitVec.toInt_ofInt_eq_self <;> omega

/-- Settles O17: EX and result side by side are the exact signed product, which fits. -/
theorem mliGivesSignedProduct : Obligations.MliGivesSignedProduct := by
  intro b a s r
  refine ⟨u16 (mliExact r.vb r.va), hi16 (mliExact r.vb r.va), rfl, ?_⟩
  rw [hi16_append_u16, toInt_ofInt_mliExact]
  rfl

/-! ### Unsigned division (R145, R147) -/

section
variable {va : Word} (h : va ≠ 0#16) (vb : Word)
include h

theorem divResult_toNat : (divResult vb va).toNat = vb.toNat / va.toNat := by
  rw [divResult, if_neg h]
  exact u16_natCast_toNat (Nat.lt_of_le_of_lt (Nat.div_le_self _ _) vb.isLt)

theorem divEx_toNat : (divEx vb va).toNat = 65536 * vb.toNat / va.toNat % 65536 := by
  have hnarrow := u16_toNat (uInt vb * 65536 / uInt va)
  rw [divEx, if_neg h, Nat.mul_comm 65536]
  exact Int.ofNat.inj hnarrow

theorem modResult_toNat : (modResult vb va).toNat = vb.toNat % va.toNat := by
  rw [modResult, if_neg h]
  exact u16_natCast_toNat (Nat.lt_of_le_of_lt (Nat.mod_le _ _) vb.isLt)

/-- R145: the quotient is the integer part of the 16.16 quotient, EX the 16 bits after its point. -/
theorem divResult_divEx_fixed_point :
    65536 * (divResult vb va).toNat + (divEx vb va).toNat = 65536 * vb.toNat / va.toNat := by
  have hinteger : 65536 * vb.toNat / va.toNat / 65536 = vb.toNat / va.toNat := by
    rw [Nat.div_div_eq_div_mul, Nat.mul_comm va.toNat, Nat.mul_div_mul_left _ _ (by omega)]
  rw [divResult_toNat h, divEx_toNat h, ← hinteger]
  exact Nat.div_add_mod _ _

end

/-- Settles O18, from the quotient and its 16.16 form. -/
theorem divGivesQuotientAndFraction : Obligations.DivGivesQuotientAndFraction :=
  fun _ _ _ => ⟨_, _, rfl, fun hzero => ⟨if_pos hzero, if_pos hzero⟩,
    fun hva => ⟨divResult_toNat hva _, divResult_divEx_fixed_point hva _⟩⟩

/-! ### Signed division (R146, R148, R150, R151) -/

/-- R146: the wrapped quotient is the signed division of words, the overflowing pair included. -/
theorem dviResult_eq_sdiv {va : Word} (h : va ≠ 0#16) (vb : Word) : dviResult vb va = vb.sdiv va := by
  rw [dviResult, if_neg h]
  apply BitVec.eq_of_toInt_eq
  rw [BitVec.toInt_sdiv]
  exact BitVec.toInt_ofInt _

/-- R148: the remainder of the truncating division of words. -/
theorem mdiResult_eq_srem {va : Word} (h : va ≠ 0#16) (vb : Word) : mdiResult vb va = vb.srem va := by
  have hrem : (s16 vb).tmod (s16 va) = s16 (vb.srem va) := (BitVec.toInt_srem vb va).symm
  rw [mdiResult, if_neg h, hrem, u16_s16]

theorem dviEx_toNat {va : Word} (h : va ≠ 0#16) (vb : Word) :
    ((dviEx vb va).toNat : Int) = (65536 * vb.toInt).tdiv va.toInt % 65536 := by
  rw [dviEx, if_neg h, Int.mul_comm 65536]
  exact u16_toNat _

/-- Settles O19, from the signed quotient and EX as the residue of the scaled one. -/
theorem dviGivesSignedQuotient : Obligations.DviGivesSignedQuotient :=
  fun _ _ _ => ⟨_, _, rfl, fun hzero => ⟨if_pos hzero, if_pos hzero⟩,
    fun hva => ⟨dviResult_eq_sdiv hva _, dviEx_toNat hva _⟩⟩

/-- Settles O20: both operators write `b` alone, a zero divisor being the first case of each remainder. -/
theorem modMdiGiveRemainder : Obligations.ModMdiGiveRemainder := by
  intro b a s r
  refine ⟨⟨modResult r.vb r.va, rfl, ?_⟩, mdiResult r.vb r.va, rfl, ?_⟩ <;> split
  case refine_1.isTrue hzero => exact congrArg BitVec.toNat (if_pos hzero)
  case refine_1.isFalse hva => exact modResult_toNat hva _
  case refine_2.isTrue hzero => exact if_pos hzero
  case refine_2.isFalse hva => exact mdiResult_eq_srem hva _

/-- R150: a truncating remainder is 0 or has the sign of the dividend. -/
theorem tmod_eq_zero_or_neg_iff (n d : Int) : n.tmod d = 0 ∨ (n.tmod d < 0 ↔ n < 0) := by
  have hsign := Int.sign_tmod n d
  split at hsign
  · exact .inl (Int.sign_eq_zero_iff_zero.1 hsign)
  · exact .inr (by rw [← Int.sign_eq_neg_one_iff_neg, hsign, Int.sign_eq_neg_one_iff_neg])

/-- Settles O21: on every pair but -32768 and -1 the quotient does not wrap, so both results are those of the truncating
division of integers. -/
theorem signedDivisionLaw : Obligations.SignedDivisionLaw := by
  refine ⟨fun vb va hva hpair => ?_, by decide, by decide⟩
  have hquot : (dviResult vb va).toInt = vb.toInt.tdiv va.toInt := by
    rw [dviResult_eq_sdiv hva]
    exact BitVec.toInt_sdiv_of_ne_or_ne vb va (not_and_or.1 hpair)
  have hrem : (mdiResult vb va).toInt = vb.toInt.tmod va.toInt := by
    rw [mdiResult_eq_srem hva, BitVec.toInt_srem]
  have hdivisor : va.toInt ≠ 0 := fun hzero => hva (BitVec.eq_of_toInt_eq hzero)
  rw [hquot, hrem]
  refine ⟨Int.mul_tdiv_add_tmod _ _, ?_, tmod_eq_zero_or_neg_iff _ _⟩
  rw [Int.natAbs_tmod]
  exact Nat.mod_lt _ (Int.natAbs_pos.2 hdivisor)

end Sys2Proof.Machine
end

section
/-! SUPPORT. The statements of `42_bitwise_shift.md`: AND, BOR and XOR bit by bit and at their destination (R160 to R162), and
that the exact shifts of `Machine/Flags.lean`, narrowed to words, are the shifts of 32-bit words (R163 to R166). -/

namespace Sys2Proof.Machine

/-! ### The 32-bit words that are shifted (R163, R165) -/

/-- R8, R9: dividing before narrowing takes the high half. -/
theorem u16_div_append_u16 (n : Int) : (u16 (n / 65536) ++ u16 n : BitVec 32) = BitVec.ofInt 32 n := by
  have hhigh : u16 (n / 65536) = hi16 n := by
    have hdiv := u16_toNat (n / 65536)
    have hhi := hi16_toNat n
    apply BitVec.eq_of_toNat_eq
    omega
  rw [hhigh, hi16_append_u16]

/-- R163: the exact right shift, of at most 32 bits already, is that of `vb:0x0000`. -/
theorem ofInt_shrExact (vb va : Word) :
    BitVec.ofInt 32 (shrExact vb va) = (vb ++ 0#16 : BitVec 32) >>> va.toNat := by
  have hexact : shrExact vb va = (vb.toNat * 65536 / 2 ^ va.toNat : Nat) := (Int.natCast_div _ _).symm
  have hword : (vb ++ 0#16 : BitVec 32).toNat = vb.toNat * 65536 := by
    rw [append_toNat, BitVec.toNat_zero, Nat.add_zero]
  have hbound : vb.toNat * 65536 / 2 ^ va.toNat < 2 ^ 32 :=
    Nat.lt_of_le_of_lt (Nat.div_le_self _ _) (by have := vb.isLt; omega)
  apply BitVec.eq_of_toNat_eq
  rw [hexact, BitVec.ofInt_natCast, BitVec.toNat_ofNat, Nat.mod_eq_of_lt hbound, BitVec.toNat_ushiftRight, hword,
    Nat.shiftRight_eq_div_pow]

/-- R165: the exact left shift, cut to 32 bits, is that of `0x0000:vb`. -/
theorem ofInt_shlExact (vb va : Word) :
    BitVec.ofInt 32 (shlExact vb va) = (0#16 ++ vb : BitVec 32) <<< va.toNat := by
  have hexact : shlExact vb va = (vb.toNat * 2 ^ va.toNat : Nat) := (Int.natCast_mul _ _).symm
  have hword : (0#16 ++ vb : BitVec 32).toNat = vb.toNat := by
    rw [append_toNat, BitVec.toNat_zero, Nat.zero_mul, Nat.zero_add]
  apply BitVec.eq_of_toNat_eq
  rw [hexact, BitVec.ofInt_natCast, BitVec.toNat_ofNat, BitVec.toNat_shiftLeft, hword, Nat.shiftLeft_eq]

/-! ### Result and EX of the shifts (R163 to R166) -/

/-- R163: result and EX of SHR side by side. -/
theorem shrResult_append_shrEx (vb va : Word) :
    (shrResult vb va ++ shrEx vb va : BitVec 32) = (vb ++ 0#16 : BitVec 32) >>> va.toNat :=
  (u16_div_append_u16 _).trans (ofInt_shrExact vb va)

/-- R163, R164: EX after SHR and ASR is the low half of the zero-filled shift. -/
theorem shrEx_eq_setWidth (vb va : Word) : shrEx vb va = ((vb ++ 0#16 : BitVec 32) >>> va.toNat).setWidth 16 := by
  rw [← shrResult_append_shrEx, BitVec.setWidth_append, dif_pos (Nat.le_refl 16), BitVec.setWidth_eq]

/-- R164: floor division of the signed word by a power of two copies the sign bit in. -/
theorem asrResult_eq_sshiftRight (vb va : Word) : asrResult vb va = vb.sshiftRight va.toNat :=
  congrArg (BitVec.ofInt 16) (Int.shiftRight_eq_div_pow vb.toInt va.toNat).symm

/-- R165: EX and result of SHL side by side. -/
theorem shlEx_append_shlResult (vb va : Word) :
    (shlEx vb va ++ shlResult vb va : BitVec 32) = (0#16 ++ vb : BitVec 32) <<< va.toNat :=
  (u16_div_append_u16 _).trans (ofInt_shlExact vb va)

/-- Settles O23: SHR writes the high half of the shifted word to `b` and its low half to EX. -/
theorem shrShiftsIntoEx : Obligations.ShrShiftsIntoEx :=
  fun _ _ _ => ⟨_, _, rfl, shrResult_append_shrEx _ _⟩

/-- Settles O24, from the arithmetic result and the EX that ASR shares with SHR. -/
theorem asrKeepsTheSign : Obligations.AsrKeepsTheSign :=
  fun _ _ _ => ⟨_, _, rfl, asrResult_eq_sshiftRight _ _, shrEx_eq_setWidth _ _⟩

/-- Settles O25: SHL writes the low half of the shifted word to `b` and its high half to EX. -/
theorem shlShiftsIntoEx : Obligations.ShlShiftsIntoEx :=
  fun _ _ _ => ⟨_, _, rfl, shlEx_append_shlResult _ _⟩

/-! ### AND, BOR and XOR (R160 to R162) -/

/-- Settles O60: the three operators are of the shape that writes `b` alone, each with its own function of the two values. -/
theorem bitwiseOperatorsWriteTheDestination : Obligations.BitwiseOperatorsWriteTheDestination := by
  intro b a s hm r c hc
  have hshape : ∃ f, exec c.1 s = .next (writeResult f b a s) ∧ f r.vb r.va = c.2 := by
    simp only [List.mem_cons, List.not_mem_nil, or_false] at hc
    obtain rfl | rfl | rfl := hc
    · exact ⟨(· &&& ·), rfl, rfl⟩
    · exact ⟨(· ||| ·), rfl, rfl⟩
    · exact ⟨(· ^^^ ·), rfl, rfl⟩
  obtain ⟨f, hexec, hresult⟩ := hshape
  exact ⟨writeResult f b a s, hexec, fun hlit => (writeResult_readRef f hm hlit).trans hresult,
    writeResult_frameB f b a s, writeResult_ex f⟩

/-- Settles O22: each of the three operators writes the word its operation on words gives, which acts on each bit. -/
theorem bitwiseResults : Obligations.BitwiseResults := by
  intro b a s r
  refine ⟨⟨r.vb &&& r.va, rfl, fun k => ?_⟩, ⟨r.vb ||| r.va, rfl, fun k => ?_⟩, ⟨r.vb ^^^ r.va, rfl, fun k => ?_⟩⟩
  · exact BitVec.getLsbD_and
  · exact BitVec.getLsbD_or
  · exact BitVec.getLsbD_xor

end Sys2Proof.Machine
end

section
/-! SUPPORT. The statements of `43_conditional.md`: what each conditional tests (R170 to R177), the skip chain over a run of
conditionals of any length (R178, R179), and the chain that never ends (R180). -/

namespace Sys2Proof.Machine

/-! ### The eight tests (R170 to R177) -/

theorem and_eq_zero_iff_no_common_bit (vb va : Word) :
    vb &&& va = 0#16 ↔ ¬ ∃ k, vb.getLsbD k = true ∧ va.getLsbD k = true := by
  have hbit (k : Nat) : (vb &&& va).getLsbD k = true ↔ vb.getLsbD k = true ∧ va.getLsbD k = true := by
    rw [BitVec.getLsbD_and, Bool.and_eq_true]
  constructor
  · rintro h ⟨k, hk⟩
    rw [← hbit, h, BitVec.getLsbD_zero] at hk
    cases hk
  · intro h
    refine BitVec.eq_of_getLsbD_eq fun k _ => ?_
    rw [BitVec.getLsbD_zero, Bool.eq_false_iff, Ne, hbit]
    exact fun hk => h ⟨k, hk⟩

theorem testIfb_iff (vb va : Word) : testIfb vb va = true ↔ ∃ k, vb.getLsbD k = true ∧ va.getLsbD k = true := by
  rw [testIfb, bne_iff_ne, Ne, and_eq_zero_iff_no_common_bit, not_not]

theorem testIfc_iff (vb va : Word) : testIfc vb va = true ↔ ¬ ∃ k, vb.getLsbD k = true ∧ va.getLsbD k = true := by
  rw [testIfc, beq_iff_eq, and_eq_zero_iff_no_common_bit]

theorem testIfe_iff (vb va : Word) : testIfe vb va = true ↔ vb = va := beq_iff_eq

theorem testIfn_iff (vb va : Word) : testIfn vb va = true ↔ vb ≠ va := bne_iff_ne

theorem testIfg_iff (vb va : Word) : testIfg vb va = true ↔ vb > va := by
  rw [testIfg, decide_eq_true_iff, uInt, uInt, Int.ofNat_lt, gt_iff_lt, BitVec.lt_def]

theorem testIfa_iff (vb va : Word) : testIfa vb va = true ↔ vb.toInt > va.toInt := decide_eq_true_iff

theorem testIfl_iff (vb va : Word) : testIfl vb va = true ↔ vb < va := by
  rw [testIfl, decide_eq_true_iff, uInt, uInt, Int.ofNat_lt, BitVec.lt_def]

theorem testIfu_iff (vb va : Word) : testIfu vb va = true ↔ vb.toInt < va.toInt := decide_eq_true_iff

/-! ### The eight conditionals as one (R178) -/

/-- R178: each conditional of the table is `ExecuteConditional` with a test that decides the table's predicate. -/
theorem exec_conditionalTable {b : OperandB} {a : OperandA} {c : Instr × (Word → Word → Prop)}
    (hc : c ∈ conditionalTable b a) :
    ∃ test : Word → Word → Bool, (∀ s, exec c.1 s = executeConditional test b a s) ∧
      ∀ vb va, test vb va = true ↔ c.2 vb va := by
  simp only [conditionalTable, List.mem_cons, List.not_mem_nil, or_false] at hc
  obtain rfl | rfl | rfl | rfl | rfl | rfl | rfl | rfl := hc
  · exact ⟨testIfb, fun _ => rfl, testIfb_iff⟩
  · exact ⟨testIfc, fun _ => rfl, testIfc_iff⟩
  · exact ⟨testIfe, fun _ => rfl, testIfe_iff⟩
  · exact ⟨testIfn, fun _ => rfl, testIfn_iff⟩
  · exact ⟨testIfg, fun _ => rfl, testIfg_iff⟩
  · exact ⟨testIfa, fun _ => rfl, testIfa_iff⟩
  · exact ⟨testIfl, fun _ => rfl, testIfl_iff⟩
  · exact ⟨testIfu, fun _ => rfl, testIfu_iff⟩

section
variable {b : OperandB} {a : OperandA} {s : State} {c : Instr × (Word → Word → Prop)}

/-- R181: a conditional whose test holds moves SP by its operands and does nothing else. -/
theorem exec_conditional_of_true (hc : c ∈ conditionalTable b a)
    (h : c.2 (resolveBoth b a s).vb (resolveBoth b a s).va) :
    exec c.1 s = .next (s.setSp (spAfterB b (spAfterA a s.sp))) := by
  obtain ⟨test, hexec, htest⟩ := exec_conditionalTable hc
  rcases executeConditional_cases test b a s with ⟨-, e⟩ | ⟨hfalse, -⟩
  · exact (hexec s).trans e
  · exact absurd ((htest _ _).2 h) (Bool.eq_false_iff.1 hfalse)

/-- R178: a conditional whose test fails runs the skip chain, SP moved by its operands. -/
theorem exec_conditional_of_false (hc : c ∈ conditionalTable b a)
    (h : ¬ c.2 (resolveBoth b a s).vb (resolveBoth b a s).va) :
    exec c.1 s = skipChain skipFuel (s.setSp (spAfterB b (spAfterA a s.sp))) := by
  obtain ⟨test, hexec, htest⟩ := exec_conditionalTable hc
  rcases executeConditional_cases test b a s with ⟨htrue, -⟩ | ⟨-, e⟩
  · exact absurd ((htest _ _).1 htrue) h
  · exact (hexec s).trans e

end

theorem isConditional_of_mem_conditionalTable {b : OperandB} {a : OperandA} :
    ∀ c ∈ conditionalTable b a, c.1.isConditional = true := by
  simp [conditionalTable, Instr.isConditional]

/-- R178: the conditionals a chain runs over are those of the table. -/
theorem isConditional_iff (i : Instr) : i.isConditional = true ↔ ∃ b a, ∃ c ∈ conditionalTable b a, i = c.1 := by
  constructor
  · intro h
    cases i with
    | ifb b a => exact ⟨b, a, _, List.mem_of_getElem? (i := 0) rfl, rfl⟩
    | ifc b a => exact ⟨b, a, _, List.mem_of_getElem? (i := 1) rfl, rfl⟩
    | ife b a => exact ⟨b, a, _, List.mem_of_getElem? (i := 2) rfl, rfl⟩
    | ifn b a => exact ⟨b, a, _, List.mem_of_getElem? (i := 3) rfl, rfl⟩
    | ifg b a => exact ⟨b, a, _, List.mem_of_getElem? (i := 4) rfl, rfl⟩
    | ifa b a => exact ⟨b, a, _, List.mem_of_getElem? (i := 5) rfl, rfl⟩
    | ifl b a => exact ⟨b, a, _, List.mem_of_getElem? (i := 6) rfl, rfl⟩
    | ifu b a => exact ⟨b, a, _, List.mem_of_getElem? (i := 7) rfl, rfl⟩
    | _ => cases h
  · rintro ⟨b, a, c, hc, rfl⟩
    exact isConditional_of_mem_conditionalTable c hc

/-- Every instruction but a conditional has a next state, from every state. -/
theorem exec_next_of_unconditional {i : Instr} (h : i.isConditional = false) (s : State) : ∃ t, exec i s = .next t := by
  cases i with
  | ifb b a | ifc b a | ife b a | ifn b a | ifg b a | ifa b a | ifl b a | ifu b a => cases h
  | _ => exact ⟨_, rfl⟩

/-! ### Runs of conditionals (R178) -/

/-- A conditional instruction word stands at `pc`. -/
def ConditionalAt (m : Memory) (pc : Word) : Prop :=
  ∃ i, decodeWord (m.read pc) = .ok i ∧ i.isConditional = true

/-- The address after the instruction at `pc`; an illegal word is not passed (R179). -/
def addrAfter (m : Memory) (pc : Word) : Word :=
  match decodeWord (m.read pc) with
  | .ok i => pc + BitVec.ofNat 16 i.words
  | .error _ => pc

theorem addrAfter_of_decode {m : Memory} {pc : Word} {i : Instr} (h : decodeWord (m.read pc) = .ok i) :
    addrAfter m pc = pc + BitVec.ofNat 16 i.words := by
  simp only [addrAfter, h]

theorem not_conditionalAt_of_unconditional {m : Memory} {pc : Word} {i : Instr} (h : decodeWord (m.read pc) = .ok i)
    (hi : i.isConditional = false) : ¬ ConditionalAt m pc := by
  rintro ⟨j, hj, hcond⟩
  obtain rfl : i = j := Except.ok.inj (h.symm.trans hj)
  exact absurd hcond (Bool.eq_false_iff.1 hi)

theorem not_conditionalAt_of_error {m : Memory} {pc : Word} {e : Reject} (h : decodeWord (m.read pc) = .error e) :
    ¬ ConditionalAt m pc := by
  rintro ⟨j, hj, -⟩
  cases h.symm.trans hj

theorem condRun_zero_iff {m : Memory} {pc pc' : Word} : CondRun m pc 0 pc' ↔ pc' = pc :=
  ⟨fun h => by cases h; rfl, fun h => h.symm ▸ .none pc⟩

theorem condRun_succ_iff {m : Memory} {pc pc' : Word} {n : Nat} :
    CondRun m pc (n + 1) pc' ↔ ConditionalAt m pc ∧ CondRun m (addrAfter m pc) n pc' := by
  constructor
  · intro h
    cases h with
    | more _ i _ _ hdec hi hrest => exact ⟨⟨i, hdec, hi⟩, addrAfter_of_decode hdec ▸ hrest⟩
  · rintro ⟨⟨i, hdec, hi⟩, hrest⟩
    exact .more pc i n pc' hdec hi (addrAfter_of_decode hdec ▸ hrest)

/-- A run of `n` conditionals is determined by where it starts: it goes over the first `n` addresses of the chain. -/
theorem condRun_iff {m : Memory} {pc pc' : Word} {n : Nat} :
    CondRun m pc n pc' ↔ (∀ k < n, ConditionalAt m ((addrAfter m)^[k] pc)) ∧ pc' = (addrAfter m)^[n] pc := by
  induction n generalizing pc with
  | zero => simp [condRun_zero_iff]
  | succ n ih => rw [condRun_succ_iff, ih, Nat.forall_lt_succ_left, and_assoc]; rfl

/-! ### A chain over more addresses than there are never ends (R180) -/

/-- R180: among the first 65,537 words of an iteration some word recurs. -/
theorem exists_iterate_recurs (f : Word → Word) (x : Word) : ∃ i j, i < j ∧ j ≤ skipFuel ∧ f^[i] x = f^[j] x := by
  have hcard : (Finset.range skipFuel).card < (Finset.range (skipFuel + 1)).card := by
    rw [Finset.card_range, Finset.card_range]
    exact Nat.lt_succ_self _
  obtain ⟨i, hi, j, hj, hne, heq⟩ := Finset.exists_ne_map_eq_of_card_lt_of_maps_to hcard
    (f := fun k => (f^[k] x).toNat) fun k _ => Finset.mem_range.2 (f^[k] x).isLt
  rw [Finset.mem_range] at hi hj
  have heq : f^[i] x = f^[j] x := BitVec.eq_of_toNat_eq heq
  rcases Nat.lt_or_gt_of_ne hne with hlt | hlt
  · exact ⟨i, j, hlt, by omega, heq⟩
  · exact ⟨j, i, hlt, by omega, heq.symm⟩

/-- R180: every word an iteration ever reaches is among its first 65,536. -/
theorem exists_iterate_eq_of_lt_skipFuel (f : Word → Word) (x : Word) (n : Nat) :
    ∃ k < skipFuel, f^[k] x = f^[n] x := by
  obtain ⟨i, j, hij, hj, heq⟩ := exists_iterate_recurs f x
  induction n using Nat.strong_induction_on with
  | _ n ih =>
    by_cases hn : n < skipFuel
    · exact ⟨n, hn, rfl⟩
    · obtain ⟨k, hk, hkeq⟩ := ih (n - j + i) (by omega)
      refine ⟨k, hk, ?_⟩
      calc f^[k] x = f^[n - j] (f^[i] x) := hkeq.trans (Function.iterate_add_apply f _ _ x)
        _ = f^[n - j] (f^[j] x) := by rw [heq]
        _ = f^[n - j + j] x := (Function.iterate_add_apply f _ _ x).symm
        _ = f^[n] x := by rw [Nat.sub_add_cancel (by omega)]

/-- R180: after a run of 65,536 conditionals the chain meets nothing but conditionals. -/
theorem CondRun.conditionalAt_iterate {m : Memory} {pc pc' : Word} {n : Nat} (h : CondRun m pc n pc') (hn : skipFuel ≤ n)
    (k : Nat) : ConditionalAt m ((addrAfter m)^[k] pc) := by
  obtain ⟨l, hl, heq⟩ := exists_iterate_eq_of_lt_skipFuel (addrAfter m) pc k
  exact heq ▸ (condRun_iff.1 h).1 l (Nat.lt_of_lt_of_le hl hn)

/-- R180: where a run of 65,536 conditionals stands, runs of every length stand. -/
theorem CondRun.exists_of_skipFuel {m : Memory} {pc pc' : Word} (h : CondRun m pc skipFuel pc') (n : Nat) :
    ∃ pc', CondRun m pc n pc' :=
  ⟨_, condRun_iff.2 ⟨fun k _ => h.conditionalAt_iterate (Nat.le_refl _) k, rfl⟩⟩

/-- R180: a run of conditionals that ends is shorter than the fuel. -/
theorem CondRun.lt_skipFuel {m : Memory} {pc pc' : Word} {n : Nat} (h : CondRun m pc n pc')
    (hend : ¬ ConditionalAt m pc') : n < skipFuel := by
  by_contra hn
  rw [(condRun_iff.1 h).2] at hend
  exact hend (h.conditionalAt_iterate (Nat.le_of_not_lt hn) n)

/-! ### The skip chain over a run (R178, R179) -/

theorem skipChain_of_conditional {s : State} {i : Instr} (fuel : Nat) (h : decodeWord (s.mem.read s.pc) = .ok i)
    (hi : i.isConditional = true) :
    skipChain (fuel + 1) s = skipChain fuel ((s.setPc (s.pc + BitVec.ofNat 16 i.words)).setCycles (s.cycles + 1)) := by
  simp only [skipChain, h, hi, if_true]

theorem skipChain_of_unconditional {s : State} {i : Instr} (fuel : Nat) (h : decodeWord (s.mem.read s.pc) = .ok i)
    (hi : i.isConditional = false) :
    skipChain (fuel + 1) s = .next ((s.setPc (s.pc + BitVec.ofNat 16 i.words)).setCycles (s.cycles + 1)) := by
  simp only [skipChain, h, hi, Bool.false_eq_true, if_false]

theorem skipChain_of_error {s : State} {e : Reject} (fuel : Nat) (h : decodeWord (s.mem.read s.pc) = .error e) :
    skipChain (fuel + 1) s = .next (raiseIllegalInstruction s) := by
  simp only [skipChain, h]

/-- R178: the chain passes a run of `n` conditionals in `n` rounds, one cycle each. -/
theorem skipChain_of_condRun {s : State} {n : Nat} {pc' : Word} (fuel : Nat) (h : CondRun s.mem s.pc n pc') :
    skipChain (n + fuel) s = skipChain fuel ((s.setPc pc').setCycles (s.cycles + n)) := by
  induction n generalizing s with
  | zero =>
    rw [condRun_zero_iff.1 h, Nat.zero_add]
    rfl
  | succ n ih =>
    cases h with
    | more _ i _ _ hdec hi hrest =>
      rw [Nat.succ_add, skipChain_of_conditional _ hdec hi, ih hrest, Nat.add_comm n 1, ← Nat.add_assoc]
      rfl

/-- R178, R180: a run of conditionals that ends leaves the chain fuel for one more round. -/
theorem exists_skipChain_skipFuel_eq {s : State} {n : Nat} {pc' : Word} (h : CondRun s.mem s.pc n pc')
    (hend : ¬ ConditionalAt s.mem pc') :
    ∃ fuel, skipChain skipFuel s = skipChain (fuel + 1) ((s.setPc pc').setCycles (s.cycles + n)) := by
  obtain ⟨fuel, hfuel⟩ := Nat.exists_eq_add_of_lt (h.lt_skipFuel hend)
  exact ⟨fuel, by rw [hfuel, Nat.add_assoc, skipChain_of_condRun _ h]⟩

/-- R180: the chain is out of fuel when as many conditionals stand at PC as it has rounds. -/
theorem skipChain_fault_iff {fuel : Nat} {s : State} :
    (∃ f, skipChain fuel s = .fault f) ↔ ∃ pc', CondRun s.mem s.pc fuel pc' := by
  constructor
  · induction fuel generalizing s with
    | zero => exact fun _ => ⟨s.pc, .none s.pc⟩
    | succ fuel ih =>
      rintro ⟨f, hf⟩
      rcases skipChain_succ fuel s with ⟨e, -, he⟩ | ⟨i, hdec, hi, he⟩ | ⟨i, -, -, he⟩ <;> rw [he] at hf
      · cases hf
      · obtain ⟨pc', hrun⟩ := ih ⟨f, hf⟩
        exact ⟨pc', .more s.pc i fuel pc' hdec hi hrun⟩
      · cases hf
  · rintro ⟨pc', hrun⟩
    exact ⟨.skipChainNeverEnds, skipChain_of_condRun 0 hrun⟩

/-! ### Faults and refusals (R180) -/

/-- No arm of `exec` refuses. -/
theorem exec_ne_refused (i : Instr) (s : State) (x : Refusal) : exec i s ≠ .refused x := by
  cases hi : i.isConditional with
  | false =>
    obtain ⟨t, ht⟩ := exec_next_of_unconditional hi s
    exact ht ▸ nofun
  | true =>
    obtain ⟨b, a, c, hc, rfl⟩ := (isConditional_iff i).1 hi
    by_cases h : c.2 (resolveBoth b a s).vb (resolveBoth b a s).va
    · exact exec_conditional_of_true hc h ▸ nofun
    · exact exec_conditional_of_false hc h ▸ skipChain_not_refused _ _ x

/-- R180: a conditional faults when its test fails and the chain at PC never ends. -/
theorem exec_conditional_fault_iff {b : OperandB} {a : OperandA} {s : State} {c : Instr × (Word → Word → Prop)}
    (hc : c ∈ conditionalTable b a) : (∃ f, exec c.1 s = .fault f) ↔
      ¬ c.2 (resolveBoth b a s).vb (resolveBoth b a s).va ∧ ∀ n, ∃ pc', CondRun s.mem s.pc n pc' := by
  by_cases h : c.2 (resolveBoth b a s).vb (resolveBoth b a s).va
  · rw [exec_conditional_of_true hc h]
    exact ⟨nofun, fun hfalse => absurd h hfalse.1⟩
  · rw [exec_conditional_of_false hc h, skipChain_fault_iff]
    exact ⟨fun ⟨_, hrun⟩ => ⟨h, hrun.exists_of_skipFuel⟩, fun hruns => hruns.2 skipFuel⟩

/-! ### The statements -/

/-- Settles O29: a test that holds ends the conditional before its skip chain. -/
theorem trueConditionalFallsThrough : Obligations.TrueConditionalFallsThrough :=
  fun _ _ _ _ hc h => exec_conditional_of_true hc h

/-- Settles O30: the run is shorter than the fuel, so the chain comes to the unconditional instruction after it. -/
theorem falseConditionalSkipsToTheFirstUnconditional : Obligations.FalseConditionalSkipsToTheFirstUnconditional := by
  refine ⟨isConditional_iff, ?_⟩
  intro b a s n pc' i r c hc hfalse hrun hdec hi
  obtain ⟨fuel, hchain⟩ := exists_skipChain_skipFuel_eq (s := s.setSp (spAfterB b (spAfterA a s.sp))) hrun
    (not_conditionalAt_of_unconditional hdec hi)
  exact (exec_conditional_of_false hc hfalse).trans (hchain.trans (skipChain_of_unconditional fuel hdec hi))

/-- Settles O31: the run is shorter than the fuel, so the chain comes to the illegal word after it. -/
theorem falseConditionalFreezesOnIllegalWord : Obligations.FalseConditionalFreezesOnIllegalWord := by
  intro b a s n pc' e r c hc hfalse hrun hdec
  obtain ⟨fuel, hchain⟩ := exists_skipChain_skipFuel_eq (s := s.setSp (spAfterB b (spAfterA a s.sp))) hrun
    (not_conditionalAt_of_error hdec)
  exact (exec_conditional_of_false hc hfalse).trans (hchain.trans (skipChain_of_error fuel hdec))

/-- Settles O32: only the conditionals can be without a next state, and those fault on the endless chain. -/
theorem endlessChainIsTheOnlyFault : Obligations.EndlessChainIsTheOnlyFault := by
  refine fun i s => ⟨exec_ne_refused i s, ?_⟩
  constructor
  · rintro ⟨f, hf⟩
    cases hi : i.isConditional with
    | false =>
      obtain ⟨t, ht⟩ := exec_next_of_unconditional hi s
      cases ht.symm.trans hf
    | true =>
      obtain ⟨b, a, c, hc, rfl⟩ := (isConditional_iff i).1 hi
      exact ⟨b, a, c, hc, rfl, (exec_conditional_fault_iff hc).1 ⟨f, hf⟩⟩
  · rintro ⟨b, a, c, hc, rfl, h⟩
    exact (exec_conditional_fault_iff hc).2 h

end Sys2Proof.Machine
end

section
/-! SUPPORT. The statements of `44_carry_index.md`: ADX and SBX leave the whole exact result in `b` and EX (R190, R191), and STI
and STD move I and J after the write of SET (R192, R193). -/

namespace Sys2Proof.Machine

/-! ### The whole of EX (R190, R191) -/

/-- R120, R190, R191: resolving the operands leaves the EX that ADX and SBX read. -/
theorem resolveBoth_ex (b : OperandB) (a : OperandA) (s : State) : (resolveBoth b a s).state.ex = s.ex := by
  rw [resolveBoth_state, State.setSp_ex]

/-- R190: the exact sum as a natural number. -/
theorem adxExact_eq_natCast (vb va ex : Word) : adxExact vb va ex = (vb.toNat + va.toNat + ex.toNat : Nat) := by
  rw [Int.natCast_add, Int.natCast_add]
  rfl

/-- R9: an integer of 32 signed bits is its low half and its signed high half. -/
theorem u16_add_hi16_toInt {n : Int} (hlow : -2147483648 ≤ n) (hhigh : n < 2147483648) :
    ((u16 n).toNat : Int) + 65536 * (hi16 n).toInt = n := by
  have hlo := u16_toNat n
  have hhi := hi16_toNat n
  rw [BitVec.toInt_eq_toNat_cond]
  split <;> omega

/-- R190: the exact sum of three words has 18 bits, so result and EX hold all of it. -/
theorem adx_result_add_ex (vb va ex : Word) : (u16 (adxExact vb va ex)).toNat + 65536 * (hi16 (adxExact vb va ex)).toNat =
    vb.toNat + va.toNat + ex.toNat := by
  have hsum : vb.toNat + va.toNat + ex.toNat < 4294967296 := by
    have := vb.isLt
    have := va.isLt
    have := ex.isLt
    omega
  rw [adxExact_eq_natCast]
  exact u16_natCast_add_hi16 hsum

/-- R191: the exact difference with EX added is between -65,535 and 131,070, so result and signed EX hold all of it. -/
theorem sbx_result_add_ex (vb va ex : Word) :
    ((u16 (sbxExact vb va ex)).toNat : Int) + 65536 * (hi16 (sbxExact vb va ex)).toInt =
      (vb.toNat : Int) - va.toNat + ex.toNat := by
  have hexact : sbxExact vb va ex = (vb.toNat : Int) - va.toNat + ex.toNat := rfl
  have := vb.isLt
  have := va.isLt
  have := ex.isLt
  exact (u16_add_hi16_toInt (by omega) (by omega)).trans hexact

/-- Settles O26: each operator writes the two halves of its exact result, and the EX in it is that of the state before. -/
theorem adxSbxAddTheWholeEx : Obligations.AdxSbxAddTheWholeEx := by
  intro b a s r
  rw [← resolveBoth_ex b a s]
  exact ⟨⟨_, _, rfl, adx_result_add_ex _ _ _⟩, ⟨_, _, rfl, sbx_result_add_ex _ _ _⟩⟩

/-! ### I and J after the move (R192, R193) -/

/-- R120, R192, R193: STI and STD write `b` as SET does, and then I and J. -/
theorem writeAndStep_eq (d : Word) (b : OperandB) (a : OperandA) (s : State) :
    let u := writeResult (fun _ va => va) b a s
    writeAndStep d b a s = (u.setReg .i (u.reg .i + d)).setReg .j (u.reg .j + d) := by
  intro u
  rw [← State.reg_setReg_other u .i .j (u.reg .i + d) nofun]
  rfl

/-- R8: a word moved by an integer is the word of the sum. -/
theorem add_ofInt (v : Word) (n : Int) : v + BitVec.ofInt 16 n = BitVec.ofInt 16 (v.toNat + n) := by
  rw [BitVec.ofInt_add, BitVec.ofInt_natCast, BitVec.ofNat_toNat, BitVec.setWidth_eq]

theorem writeAndStep_reg_moved (d : Word) (b : OperandB) (a : OperandA) (s : State) {g : Reg} (h : g = .i ∨ g = .j) :
    (writeAndStep d b a s).reg g = (writeResult (fun _ va => va) b a s).reg g + d := by
  rw [writeAndStep_eq]
  rcases h with rfl | rfl
  · rw [State.reg_setReg_other _ .j .i _ nofun, State.reg_setReg_same]
  · rw [State.reg_setReg_same]

theorem writeAndStep_reg_other (d : Word) (b : OperandB) (a : OperandA) (s : State) {g : Reg} (hi : g ≠ .i) (hj : g ≠ .j) :
    (writeAndStep d b a s).reg g = (writeResult (fun _ va => va) b a s).reg g := by
  rw [writeAndStep_eq, State.reg_setReg_other _ _ _ _ hj, State.reg_setReg_other _ _ _ _ hi]

/-- R192, R193: STI and STD are of the shape that writes and steps, by 1 and by -1. -/
theorem exec_of_mem_sti_std {b : OperandB} {a : OperandA} {c : Instr × Int} (h : c ∈ [(Instr.sti b a, 1), (Instr.std b a, -1)])
    (s : State) : exec c.1 s = .next (writeAndStep (BitVec.ofInt 16 c.2) b a s) := by
  simp only [List.mem_cons, List.not_mem_nil, or_false] at h
  rcases h with rfl | rfl <;> rfl

/-- Settles O27: the state after SET's write differs from the next state in I and J alone. -/
theorem stiStdMoveThenStep : Obligations.StiStdMoveThenStep := by
  intro b a s r u c hc
  have hmoved {g : Reg} (h : g = .i ∨ g = .j) :
      (writeAndStep (BitVec.ofInt 16 c.2) b a s).reg g = BitVec.ofInt 16 ((u.reg g).toNat + c.2) :=
    (writeAndStep_reg_moved _ b a s h).trans (add_ofInt _ _)
  exact ⟨_, exec_of_mem_sti_std hc s, hmoved (.inl rfl), hmoved (.inr rfl), fun _ => writeAndStep_reg_other _ b a s,
    rfl, rfl, rfl, rfl, (dataOnly_writeAndStep _ b a s).control⟩

end Sys2Proof.Machine
end

section
/-! SUPPORT. The statements of `45_special_control.md`: JSR (R200), INT (R201), IAG (R202), IAS and IAQ (R203, R205), and RFI
(R204), by itself and as the inverse of taking an interrupt (R246, R248). -/

namespace Sys2Proof.Machine

/-! ### The operators that read `a`: the state with SP moved, then the operator's own change -/

section
variable (a : OperandA) (s : State)

theorem exec_jsr : exec (.jsr a) s = .next (((s.setSp (spAfterA a s.sp)).push s.pc).setPc (valueA a s)) :=
  congrArg Host.Outcome.next (withValueA_eq a s _)

theorem exec_int : exec (.int a) s = .next (requestInterrupt (valueA a s) (s.setSp (spAfterA a s.sp))) :=
  congrArg Host.Outcome.next (withValueA_eq a s _)

theorem exec_ias : exec (.ias a) s = .next ((s.setSp (spAfterA a s.sp)).setIa (valueA a s)) :=
  congrArg Host.Outcome.next (withValueA_eq a s _)

theorem exec_iaq : exec (.iaq a) s = .next ((s.setSp (spAfterA a s.sp)).setIe (valueA a s == 0#16)) :=
  congrArg Host.Outcome.next (withValueA_eq a s _)

theorem exec_rfi : exec (.rfi a) s = .next (returnFromInterrupt (s.setSp (spAfterA a s.sp))) :=
  congrArg Host.Outcome.next (withValueA_eq a s _)

end

/-! ### JSR (R200) -/

/-- Settles O33: what Push does at the SP that the operand left (R121), and then the jump. -/
theorem jsrPushesReturnAddress : Obligations.JsrPushesReturnAddress := by
  intro a s hm
  let u := s.setSp (spAfterA a s.sp)
  obtain ⟨hsp, hread, hframe, hregs, -, hex, -⟩ := pushAndPop u s.pc hm
  have hcontrol : SameControl s ((u.push s.pc).setPc (valueA a s)) :=
    (sameControl_setSp s _).trans (dataOnly_push_setPc u s.pc _).control
  exact ⟨_, exec_jsr a s, rfl, hsp, hread, hframe, hregs, hex, hcontrol⟩

/-! ### INT (R201, R241) -/

/-- R241, D19: with the block running and room in the queue, the message goes to its tail. -/
theorem requestInterrupt_of_room {s : State} (m : Word) (hrun : s.cpuState = .running) (hroom : s.iq.length < 256) :
    requestInterrupt m s = s.setIq (s.iq ++ [m]) := by
  rcases requestInterrupt_cases m s with ⟨hfrozen, -⟩ | ⟨-, hfull, -⟩ | ⟨-, -, h⟩
  · exact absurd hrun hfrozen
  · exact absurd hroom (Nat.not_lt.2 hfull)
  · exact h

/-- Settles O34: the operand moves SP alone, so the request finds the block running and the queue as they were. -/
theorem intQueuesTheMessage : Obligations.IntQueuesTheMessage := by
  intro a s hrun hroom
  rw [exec_int, requestInterrupt_of_room (s := s.setSp (spAfterA a s.sp)) _ hrun hroom]
  rfl

/-! ### The operators that write `a` (R119) -/

/-- R119: the operand of an operator that writes `a` reads the word written, unless it is a literal. -/
theorem writeA_readRef {a : OperandA} {s : State} (hm : s.mem.wf = true) (v : Word) (h : ∀ w, (resolveA a s).1 ≠ .lit w) :
    (writeA a s v).readRef (resolveA a s).1 = v := by
  rw [writeA_eq]
  exact readRef_writeRef (s := s.setSp (spAfterA a s.sp)) hm v h

/-- R119: writing the operand `a` keeps everything but its referent, and SP moves by the operand. -/
theorem writeA_frameA (a : OperandA) (s : State) (v : Word) : FrameA a s (writeA a s v) where
  regs g hg := by rw [writeA_eq, writeRef_reg _ v hg, State.reg_setSp]
  sp hsp := by rw [writeA_eq, writeRef_sp _ v hsp, State.setSp_sp]
  pc hpc := by rw [writeA_eq, writeRef_pc _ v hpc, State.setSp_pc]
  ex hex := by rw [writeA_eq, writeRef_ex _ v hex, State.setSp_ex]
  mem x hx := by rw [writeA_eq, writeRef_read _ v hx, State.setSp_mem]
  control := (dataOnly_writeA a s v).control

/-- Settles O36: IAG is the shape that writes `a`, with the IA of before as its word (R202). -/
theorem iagWritesIa : Obligations.IagWritesIa :=
  fun a s hm => ⟨writeA a s s.ia, rfl, writeA_readRef hm s.ia, writeA_frameA a s s.ia⟩

/-! ### IAS and IAQ (R203, R205) -/

/-- Settles O37: each writes its one piece of control state after the operand; the test of IAQ is that `a` is 0 (D21). -/
theorem iasAndIaqWriteControl : Obligations.IasAndIaqWriteControl := by
  refine fun a s => ⟨exec_ias a s, fun hzero => ?_, fun hnonzero => ?_⟩
  · rw [exec_iaq, beq_iff_eq.2 hzero]
    rfl
  · rw [exec_iaq, beq_eq_false_iff_ne.2 hnonzero]
    rfl

/-! ### RFI (R204, R248) -/

/-- R248: of the control state, returning from an interrupt writes IE alone. -/
theorem returnFromInterrupt_sameControl (s : State) : SameControl (s.setIe true) (returnFromInterrupt s) :=
  ⟨rfl, rfl, rfl, rfl, rfl, rfl, rfl, rfl, rfl, rfl, rfl, rfl⟩

/-- R122, R248: of the registers, returning from an interrupt writes A alone. -/
theorem returnFromInterrupt_reg_other (s : State) {g : Reg} (h : g ≠ .a) : (returnFromInterrupt s).reg g = s.reg g :=
  State.reg_setReg_other s .a g _ h

/-- Two pops raise SP by 2 (R122). -/
theorem add_one_add_one (v : Word) : v + 1#16 + 1#16 = v + 2#16 := BitVec.add_assoc v 1#16 1#16

/-- Settles O38: the two pops at the SP that the operand left, A first. -/
theorem rfiPopsAThenPc : Obligations.RfiPopsAThenPc := by
  intro a s
  let u := s.setSp (spAfterA a s.sp)
  have hcontrol : SameControl (s.setIe true) (returnFromInterrupt u) :=
    (sameControl_setSp (s.setIe true) _).trans (returnFromInterrupt_sameControl u)
  exact ⟨returnFromInterrupt u, exec_rfi a s, rfl, rfl, add_one_add_one _, rfl,
    fun _ => returnFromInterrupt_reg_other u, rfl, rfl, hcontrol⟩

/-! ### RFI right after delivery (R246, R248) -/

/-- R244, R246: with IE on, a handler and a message, delivery takes the message at the head of the queue. -/
theorem deliverInterrupts_of_handler {s : State} {m : Word} {rest : List Word} (hie : s.ie = true) (hia : s.ia ≠ 0#16)
    (hiq : s.iq = m :: rest) : deliverInterrupts s = takeInterrupt m (s.setIq rest) := by
  rcases deliverInterrupts_cases s with ⟨hoff, -⟩ | ⟨-, hnone, -⟩ | ⟨-, -, hempty, -⟩ | ⟨_, _, -, -, hhead, h⟩
  · exact absurd (hie.symm.trans hoff) nofun
  · exact absurd hnone hia
  · exact absurd (hiq.symm.trans hempty) nofun
  · obtain ⟨rfl, rfl⟩ := List.cons.inj (hiq.symm.trans hhead)
    exact h

/-- R111: an operand other than POP leaves SP as it is. -/
theorem spAfterA_of_ne_pop {a : OperandA} (h : a ≠ .pop) (sp : Word) : spAfterA a sp = sp := by
  cases a with
  | pop => exact absurd rfl h
  | mode _ | lit _ => rfl

section
variable {s : State} (hm : s.mem.wf = true) (m : Word)
include hm

/-- R246: A is pushed last. -/
theorem takeInterrupt_read_a : (takeInterrupt m s).mem.read (s.sp - 1#16 - 1#16) = s.reg .a := by
  rw [takeInterrupt_mem, Memory.read_write_same (Memory.write_wf hm _ _)]

/-- R246: PC is pushed first, and pushing A leaves it. -/
theorem takeInterrupt_read_pc : (takeInterrupt m s).mem.read (s.sp - 1#16) = s.pc := by
  have hother : s.sp - 1#16 ≠ s.sp - 1#16 - 1#16 := by bv_omega
  rw [takeInterrupt_mem, Memory.read_write_other _ hother, Memory.read_write_same hm]

/-- R246, R248: the first word popped is the A that was pushed, and the message in A is lost. -/
theorem returnFromInterrupt_takeInterrupt_regs : (returnFromInterrupt (takeInterrupt m s)).regs = s.regs := by
  rw [returnFromInterrupt_regs, takeInterrupt_sp, takeInterrupt_read_a hm, takeInterrupt_regs]
  rfl

/-- R246, R248: the second word popped is the PC that was pushed. -/
theorem returnFromInterrupt_takeInterrupt_pc : (returnFromInterrupt (takeInterrupt m s)).pc = s.pc := by
  rw [returnFromInterrupt_pc, takeInterrupt_sp, BitVec.sub_add_cancel, takeInterrupt_read_pc hm]

end

/-- R246, R248: two pushes, then two pops. -/
theorem returnFromInterrupt_takeInterrupt_sp (m : Word) (s : State) :
    (returnFromInterrupt (takeInterrupt m s)).sp = s.sp := by
  rw [returnFromInterrupt_sp, takeInterrupt_sp, BitVec.sub_add_cancel, BitVec.sub_add_cancel]

/-- Settles O44: delivery takes the message, and RFI with an operand that leaves SP pops the two words delivery pushed. -/
theorem rfiUndoesDelivery : Obligations.RfiUndoesDelivery := by
  intro s m rest a hm hie hia hiq ha
  let u := s.setIq rest
  have hexec : exec (.rfi a) (deliverInterrupts s) = .next (returnFromInterrupt (takeInterrupt m u)) := by
    rw [deliverInterrupts_of_handler hie hia hiq, exec_rfi, spAfterA_of_ne_pop ha]
    rfl
  exact ⟨_, hexec, returnFromInterrupt_takeInterrupt_regs (s := u) hm m, returnFromInterrupt_takeInterrupt_pc (s := u) hm m,
    returnFromInterrupt_takeInterrupt_sp m u, rfl, rfl, rfl, rfl⟩

end Sys2Proof.Machine
end

section
/-! SUPPORT. The statements of `46_hardware.md`: HWN (R220), HWQ (R221, R224) and HWI (R222, R224), the last two for every
device list and every reaction. -/

namespace Sys2Proof.Machine

/-! ### HWN (R220) -/

/-- Settles O39: HWN is the shape that writes `a`, with the device count narrowed to a word (log 31). -/
theorem hwnWritesDeviceCount : Obligations.HwnWritesDeviceCount := by
  intro a s hm
  refine ⟨writeA a s (BitVec.ofNat 16 Config.ndev), rfl, fun hlit => ?_, writeA_frameA a s _⟩
  rw [writeA_readRef hm _ hlit, BitVec.toNat_ofNat]
  rfl

/-! ### HWQ (R221, R224) -/

theorem exec_hwq (a : OperandA) (s : State) :
    exec (.hwq a) s = .next (hwqWith Config.devices (valueA a s) (s.setSp (spAfterA a s.sp))) :=
  congrArg Host.Outcome.next (withValueA_eq a s _)

section
variable {devices : List DeviceIdentity} {va : Word}

/-- R221, D15: for an attached device HWQ writes A, B, C, X and Y and nothing else. -/
theorem hwqWith_of_attached {d : DeviceIdentity} (h : devices[va.toNat]? = some d) (s : State) :
    hwqWith devices va s = { s with regs := { s.regs with
      a := d.id.extractLsb' 0 16, b := d.id.extractLsb' 16 16, c := d.version,
      x := d.manufacturer.extractLsb' 0 16, y := d.manufacturer.extractLsb' 16 16 } } := by
  simp only [hwqWith, h]
  rfl

/-- R224: for an index out of range HWQ does nothing. -/
theorem hwqWith_of_out_of_range (h : devices.length ≤ va.toNat) (s : State) : hwqWith devices va s = s := by
  simp only [hwqWith, List.getElem?_eq_none h]

end

/-- Settles O40: the operand moves SP, and then the two cases of HWQ; the two 32-bit parts are their halves put together. -/
theorem hwqReadsTheIdentity : Obligations.HwqReadsTheIdentity := by
  refine fun a s => ⟨exec_hwq a s, fun devices va => ⟨fun d hd => ?_, fun hout => hwqWith_of_out_of_range hout _⟩⟩
  have hcontrol : SameControl s (hwqWith devices va (s.setSp (spAfterA a s.sp))) :=
    (sameControl_setSp s _).trans (dataOnly_hwqWith devices va _).control
  have hhalves (x : BitVec 32) : x.extractLsb' 16 16 ++ x.extractLsb' 0 16 = x :=
    BitVec.extractLsb'_append_extractLsb' (w := 16) (len := 16)
  rw [hwqWith_of_attached hd] at hcontrol ⊢
  exact ⟨hhalves d.id, rfl, hhalves d.manufacturer, rfl, rfl, rfl, rfl, rfl, rfl, rfl, hcontrol⟩

/-! ### HWI (R222, R224, R256) -/

theorem exec_hwi (a : OperandA) (s : State) : exec (.hwi a) s =
    .next (hwiWith Config.ndev Config.deviceReaction (valueA a s) (s.setSp (spAfterA a s.sp))) :=
  congrArg Host.Outcome.next (withValueA_eq a s _)

section
variable {ndev : Nat} {va : Word} (react : Nat → DeviceCall → View → Reaction) (s : State)

/-- R222, R256: for an attached device HWI is the callback, and the extra cycles on top of the cycles before it. -/
theorem hwiWith_of_attached (h : va.toNat < ndev) : hwiWith ndev react va s =
    (callDevice react (.interrupt va.toNat) s).2.setCycles
      (s.cycles + (react s.devState (.interrupt va.toNat) s.view).extra) := by
  rcases hwiWith_cases ndev react va s with ⟨hout, -⟩ | ⟨-, e⟩
  · exact absurd h (Nat.not_lt.2 hout)
  · rw [e, callDevice_cycles, callDevice_extra]

/-- R224: for an index out of range HWI does nothing. -/
theorem hwiWith_of_out_of_range (h : ndev ≤ va.toNat) : hwiWith ndev react va s = s := by
  rcases hwiWith_cases ndev react va s with ⟨-, e⟩ | ⟨hin, -⟩
  · exact e
  · exact absurd hin (Nat.not_lt.2 h)

end

/-- Settles O41: the operand moves SP, and then the two cases of HWI; what the called device cannot reach is as at the start of
its operations (D29), where the call is recorded already. -/
theorem hwiCallsTheDevice : Obligations.HwiCallsTheDevice := by
  refine ⟨fun _ => ⟨rfl, rfl, rfl⟩, fun a s => ⟨exec_hwi a s, fun ndev react va =>
    ⟨fun hin => ?_, hwiWith_of_out_of_range react _⟩⟩⟩
  rw [hwiWith_of_attached react _ hin]
  obtain ⟨hie, htime, hinit, hflushing, -, hcalls, hdev⟩ :=
    callDevice_sameInside react (.interrupt va.toNat) (s.setSp (spAfterA a s.sp))
  exact ⟨hcalls, hdev, rfl, hie, htime, hinit, hflushing, rfl⟩

end Sys2Proof.Machine
end

section
/-! SUPPORT. The statements of `60_exceptions.md`: delivery of interrupts (R243 to R247), the wake list and the flush (R251 to
R254), the two fatal conditions (R231, R232), the operations of the surroundings (R258, R263), the frozen block (R234) and time
(R250). -/

namespace Sys2Proof.Machine

/-! ### Delivery (R243 to R247) -/

/-- R246: of the control state, taking an interrupt writes IE alone. -/
theorem takeInterrupt_sameControl (m : Word) (s : State) : SameControl (s.setIe false) (takeInterrupt m s) :=
  ⟨rfl, rfl, rfl, rfl, rfl, rfl, rfl, rfl, rfl, rfl, rfl, rfl⟩

/-- R246: of memory, taking an interrupt writes the two words below SP. -/
theorem takeInterrupt_read_other (m : Word) (s : State) (x : Word) (hpc : x ≠ s.sp - 1#16) (ha : x ≠ s.sp - 1#16 - 1#16) :
    (takeInterrupt m s).mem.read x = s.mem.read x := by
  rw [takeInterrupt_mem, Memory.read_write_other _ ha, Memory.read_write_other _ hpc]

/-- Settles O42: delivery takes the message at the head, and the two pushes leave PC and A on the stack. -/
theorem deliveryEntersTheHandler : Obligations.DeliveryEntersTheHandler := by
  intro s m rest hm hie hia hiq
  let u := s.setIq rest
  have hsp : u.sp - 1#16 - 1#16 = u.sp - 2#16 := BitVec.sub_sub u.sp 1#16 1#16
  have hpc := takeInterrupt_read_pc (s := u) hm m
  have ha := takeInterrupt_read_a (s := u) hm m
  have hmem := takeInterrupt_read_other m u
  have hregs : ∀ g, g ≠ .a → (takeInterrupt m u).reg g = u.reg g := fun g hg => State.reg_setReg_other u .a g m hg
  rw [hsp] at ha hmem
  rw [deliverInterrupts_of_handler hie hia hiq]
  exact ⟨hsp, hpc, ha, hmem, rfl, rfl, hregs, rfl, rfl, rfl, takeInterrupt_sameControl m u⟩

/-- Settles O43, from the cases of the delivery loop. -/
theorem deliveryWithoutHandlerEmptiesTheQueue : Obligations.DeliveryWithoutHandlerEmptiesTheQueue := by
  refine fun s => ⟨fun hie hia => ?_, fun hoff => deliverInterrupts_idle (.inr hoff),
    fun hempty => deliverInterrupts_idle (.inl hempty)⟩
  rcases deliverInterrupts_cases s with ⟨hoff, -⟩ | ⟨-, -, h⟩ | ⟨-, hhandler, -⟩ | ⟨_, _, -, hhandler, -⟩
  · exact absurd (hie.symm.trans hoff) nofun
  · exact h
  · exact absurd hia hhandler
  · exact absurd hia hhandler

/-- R102: the outputs and the initialization mark, which a step clears first, play no part in delivery. -/
theorem deliverFrom_startStep (q : List Word) (s : State) : deliverFrom q (startStep s) = startStep (deliverFrom q s) := by
  induction q with
  | nil => rfl
  | cons m rest ih =>
    have hie : (startStep s).ie = s.ie := rfl
    have hia : (startStep s).ia = s.ia := rfl
    simp only [deliverFrom, ih, hie, hia]
    split
    · split <;> rfl
    · rfl

/-- R244: after delivery there is nothing to deliver. -/
theorem deliverInterrupts_drains (s : State) : (deliverInterrupts s).iq = [] ∨ (deliverInterrupts s).ie = false := by
  rcases deliverInterrupts_cases s with ⟨hoff, e⟩ | ⟨-, -, e⟩ | ⟨-, -, hempty, e⟩ | ⟨_, _, -, -, -, e⟩ <;> rw [e]
  · exact .inr hoff
  · exact .inl rfl
  · exact .inl hempty
  · exact .inr rfl

/-- R244: delivery leaves T and `cpuState`. -/
theorem deliverInterrupts_keeps (s : State) : (deliverInterrupts s).t = s.t ∧
    (deliverInterrupts s).cpuState = s.cpuState := by
  rcases deliverInterrupts_cases s with ⟨-, e⟩ | ⟨-, -, e⟩ | ⟨-, -, -, e⟩ | ⟨_, _, -, -, -, e⟩ <;> rw [e] <;>
    exact ⟨rfl, rfl⟩

theorem step_of_running {s : State} (h : s.cpuState = .running) : step s = runningStep s := by
  simp only [step, h]

/-- Settles O51: delivery leaves nothing to deliver and commutes with the start of the step, so delivering first changes
nothing. -/
theorem stepAfterDeliveryRunsTheHandler : Obligations.StepAfterDeliveryRunsTheHandler := by
  intro s hrun
  let d := deliverInterrupts s
  have hdrained : d.iq = [] ∨ d.ie = false := deliverInterrupts_drains s
  obtain ⟨-, hcpu⟩ := deliverInterrupts_keeps s
  have hdrun : d.cpuState = .running := hcpu.trans hrun
  have hstart : deliverInterrupts (startStep s) = startStep d := deliverFrom_startStep s.iq s
  have hagain : deliverInterrupts (startStep d) = startStep d := deliverInterrupts_idle (s := startStep d) hdrained
  refine ⟨hdrained, ?_⟩
  calc step s = runningStep s := step_of_running hrun
    _ = runningStep d := by simp only [runningStep, hstart, hagain]
    _ = step d := (step_of_running hdrun).symm

/-- Settles O52: an illegal word is illegal with any words after it, and the step raises the error on the state at its start. -/
theorem stepOnIllegalWordFreezes : Obligations.StepOnIllegalWordFreezes := by
  intro s e hrun hidle hword
  obtain ⟨e', hdecode⟩ := UnmappedSlot.decode_eq ((decodeWord_error_iff _).1 ⟨e, hword⟩)
    [s.mem.read (s.pc + 1#16), s.mem.read (s.pc + 2#16)]
  have hfetch : fetch (startStep s) = .error e' := congrArg (Except.map Prod.fst) hdecode
  have hdeliver : deliverInterrupts (startStep s) = startStep s := deliverInterrupts_idle hidle
  calc step s = runningStep s := step_of_running hrun
    _ = .next (raiseIllegalInstruction (startStep s)) := by simp only [runningStep, hdeliver, hfetch]

/-! ### The wake list (R251, R252) -/

/-- The requests of a wake list that are due at time `t`: those a flush fires (R254). -/
def dueWakes (t : Nat) (wq : List WakeRequest) : List WakeRequest := wq.filter fun q => decide (q.endT ≤ t)

/-- Those that are not due at time `t`: a flush leaves them. -/
def pendingWakes (t : Nat) (wq : List WakeRequest) : List WakeRequest := wq.filter fun q => decide (t < q.endT)

theorem dueWakes_cons_of_due {t : Nat} {q : WakeRequest} (h : q.endT ≤ t) (rest : List WakeRequest) :
    dueWakes t (q :: rest) = q :: dueWakes t rest ∧ pendingWakes t (q :: rest) = pendingWakes t rest := by
  simp [dueWakes, pendingWakes, h, Nat.not_lt.2 h]

/-- When the first request of a sorted WQ is not due, none is. -/
theorem dueWakes_cons_of_not_due {t : Nat} {q : WakeRequest} {rest : List WakeRequest} (hs : WakeSorted (q :: rest))
    (h : ¬ q.endT ≤ t) : dueWakes t (q :: rest) = [] ∧ pendingWakes t (q :: rest) = q :: rest := by
  obtain ⟨hfirst, -⟩ := List.pairwise_cons.1 hs
  have hall : ∀ r ∈ q :: rest, t < r.endT := fun r hr => by
    rcases List.mem_cons.1 hr with rfl | hr
    · exact Nat.lt_of_not_le h
    · exact Nat.lt_of_lt_of_le (Nat.lt_of_not_le h) (hfirst r hr)
  exact ⟨List.filter_eq_nil_iff.2 fun r hr => by simpa using hall r hr,
    List.filter_eq_self.2 fun r hr => by simpa using hall r hr⟩

/-- R252: a request enters a sorted WQ between those due at its end and the rest. -/
theorem insertWake_eq (q : WakeRequest) {l : List WakeRequest} (h : WakeSorted l) :
    insertWake q l = dueWakes q.endT l ++ q :: pendingWakes q.endT l := by
  induction l with
  | nil => rfl
  | cons p rest ih =>
    obtain ⟨-, hrest⟩ := List.pairwise_cons.1 h
    by_cases hle : p.endT ≤ q.endT
    · obtain ⟨hdue, hpending⟩ := dueWakes_cons_of_due hle rest
      rw [insertWake, if_pos hle, ih hrest, hdue, hpending, List.cons_append]
    · obtain ⟨hdue, hpending⟩ := dueWakes_cons_of_not_due h hle
      rw [insertWake, if_neg hle, hdue, hpending, List.nil_append]

/-- R251: outside a flush a request enters WQ. -/
theorem scheduleWake_of_not_flushing {s : State} (h : s.flushing = false) (dev cycles : Nat) (ctx : Int) :
    scheduleWake dev cycles ctx s = s.setWq (insertWake ⟨dev, ctx, s.t, s.t + cycles⟩ s.wq) := by
  rcases scheduleWake_cases dev cycles ctx s with ⟨hf, -⟩ | ⟨-, e⟩
  · exact absurd (h.symm.trans hf) nofun
  · exact e

/-- R254: inside a flush a request is deferred. -/
theorem scheduleWake_of_flushing {s : State} (h : s.flushing = true) (dev cycles : Nat) (ctx : Int) :
    scheduleWake dev cycles ctx s = s.setDeferred (s.deferred ++ [⟨dev, ctx, s.t, s.t + cycles⟩]) := by
  rcases scheduleWake_cases dev cycles ctx s with ⟨-, e⟩ | ⟨hf, -⟩
  · exact e
  · exact absurd (h.symm.trans hf) nofun

/-- Settles O47: the place of an inserted request, and that insertion keeps the order. -/
theorem scheduledWakeEntersInOrder : Obligations.ScheduledWakeEntersInOrder := by
  refine ⟨fun q _ => insertWake_eq q, fun dev cycles ctx s hf hs => ?_⟩
  rw [scheduleWake_of_not_flushing hf]
  exact ⟨congrArg s.setWq (insertWake_eq _ hs), insertWake_sorted _ hs⟩

theorem mem_insertWakes {q : WakeRequest} {l : List WakeRequest} (h : q ∈ l) (qs : List WakeRequest) :
    q ∈ qs.foldl (fun wq p => insertWake p wq) l := by
  induction qs generalizing l with
  | nil => exact h
  | cons p qs ih => exact ih ((insertWake_perm p l).mem_iff.2 (List.mem_cons_of_mem p h))

/-! ### The flush (R253, R254) -/

/-- The wake callback of a request fired at time `t`: the elapsed cycles count from the request (R253, D27). -/
def wakeCall (t : Nat) (q : WakeRequest) : DeviceCall := .wake q.dev (t - q.start) q.ctx

/-- The callbacks of a list of requests fired at time `t`, first to last. -/
def fireWakes (react : Nat → DeviceCall → View → Reaction) (t : Nat) (due : List WakeRequest) (s : State) : State :=
  due.foldl (fun u q => (callDevice react (wakeCall t q) u).2) s

/-- What callbacks never touch (D29): T, IE, the cycle count and the flush mark. -/
structure SameClock (s u : State) : Prop where
  time : u.t = s.t
  ie : u.ie = s.ie
  cycles : u.cycles = s.cycles
  flushing : u.flushing = s.flushing

theorem SameClock.trans {s t u : State} (h : SameClock s t) (g : SameClock t u) : SameClock s u :=
  ⟨g.time.trans h.time, g.ie.trans h.ie, g.cycles.trans h.cycles, g.flushing.trans h.flushing⟩

theorem State.setFlushing_self {s : State} {e : Bool} (h : s.flushing = e) : s.setFlushing e = s := by
  cases h
  rfl

/-- R254: with nothing deferred, the end of a flush only clears the flush mark. -/
theorem admitDeferred_of_none {s : State} (h : s.deferred = []) : admitDeferred s = s.setFlushing false := by
  cases s
  cases h
  rfl

section
variable (react : Nat → DeviceCall → View → Reaction)

theorem callDevice_sameClock (call : DeviceCall) (s : State) : SameClock s (callDevice react call s).2 :=
  ⟨callDevice_time .., callDevice_ie .., callDevice_cycles .., callDevice_flushing ..⟩

/-- R254: what callbacks and taking requests off WQ keep, the loop keeps. -/
theorem flushLoop_induction {P : State → Prop} (hwq : ∀ u w, P u → P (u.setWq w))
    (hcall : ∀ u call, P u → P (callDevice react call u).2) (fuel : Nat) {s : State} (h : P s) :
    P (flushLoop react fuel s) := by
  induction fuel generalizing s with
  | zero => exact h
  | succ fuel ih =>
    unfold flushLoop
    split
    · exact h
    · split
      · exact ih (hcall _ _ (hwq s _ h))
      · exact h

theorem flushLoop_sameClock (fuel : Nat) (s : State) : SameClock s (flushLoop react fuel s) :=
  flushLoop_induction react (P := SameClock s) (fun _ _ h => ⟨h.time, h.ie, h.cycles, h.flushing⟩)
    (fun u call h => h.trans (callDevice_sameClock react call u)) fuel ⟨rfl, rfl, rfl, rfl⟩

/-- D29: the devices of a flush do not raise `IllegalInstruction`. -/
theorem flushWith_not_illegal {s : State} (h : s.cpuState ≠ .errorIllegalInstruction) :
    (flushWith react s).cpuState ≠ .errorIllegalInstruction :=
  flushLoop_induction react (P := fun u => u.cpuState ≠ .errorIllegalInstruction) (s := s.setFlushing true) (fun _ _ h => h)
    (fun u call h => applyActions_not_illegal (s := callStart react call u) h _) s.wq.length h

/-- R254: a flush leaves T, IE and the cycle count. -/
theorem flushWith_clock (s : State) : (flushWith react s).t = s.t ∧ (flushWith react s).ie = s.ie ∧
    (flushWith react s).cycles = s.cycles := by
  obtain ⟨htime, hie, hcycles, -⟩ := flushLoop_sameClock react s.wq.length (s.setFlushing true)
  exact ⟨htime, hie, hcycles⟩

/-- A flush with no wake request held is no change. -/
theorem flushWith_of_no_wakes {s : State} (hwq : s.wq = []) (hf : s.flushing = false) (hd : s.deferred = []) :
    flushWith react s = s := by
  rw [flushWith, hwq]
  exact (admitDeferred_of_none (s := s.setFlushing true) hd).trans (State.setFlushing_self hf)

/-- R254: while a flush runs, a callback does not depend on WQ. -/
theorem callDevice_setWq {s : State} (h : s.flushing = true) (call : DeviceCall) (w : List WakeRequest) :
    (callDevice react call (s.setWq w)).2 = (callDevice react call s).2.setWq w :=
  applyActions_setWq (s := callStart react call s) h _ w

theorem callDevice_wq {s : State} (h : s.flushing = true) (call : DeviceCall) : (callDevice react call s).2.wq = s.wq :=
  applyActions_wq_flushing (s := callStart react call s) h _

theorem callDevice_deferred {s : State} (h : s.flushing = true) (call : DeviceCall) :
    (callDevice react call s).2.deferred = s.deferred ++ requestsOf s.t (react s.devState call s.view).actions :=
  applyActions_deferred_flushing (s := callStart react call s) h _

/-- R254: with fuel for the whole of a sorted WQ, the loop takes the due requests off WQ and makes their callbacks. -/
theorem flushLoop_eq_fireWakes {fuel : Nat} {s : State} (hf : s.flushing = true) (hs : WakeSorted s.wq)
    (hfuel : s.wq.length ≤ fuel) : flushLoop react fuel s =
      fireWakes react s.t (dueWakes s.t s.wq) (s.setWq (pendingWakes s.t s.wq)) := by
  induction fuel generalizing s with
  | zero =>
    have hnil : s.wq = [] := List.eq_nil_of_length_eq_zero (Nat.le_zero.1 hfuel)
    rw [hnil]
    exact congrArg s.setWq hnil
  | succ fuel ih =>
    cases hwq : s.wq with
    | nil =>
      simp only [flushLoop, hwq]
      exact congrArg s.setWq hwq
    | cons q rest =>
      rw [hwq] at hs hfuel
      obtain ⟨-, hrest⟩ := List.pairwise_cons.1 hs
      by_cases hdue : q.endT ≤ s.t
      · let c := wakeCall s.t q
        let u := (callDevice react c (s.setWq rest)).2
        have hu : u = (callDevice react c s).2.setWq rest := callDevice_setWq react hf c rest
        have huwq : u.wq = rest := congrArg State.wq hu
        have hut : u.t = s.t := callDevice_time react c (s.setWq rest)
        have huf : u.flushing = true := (callDevice_flushing react c (s.setWq rest)).trans hf
        have hloop : flushLoop react (fuel + 1) s = flushLoop react fuel u := by
          simp only [flushLoop, hwq, hdue, if_true]
          rfl
        have hpending : u.setWq (pendingWakes s.t rest) = (callDevice react c (s.setWq (pendingWakes s.t rest))).2 := by
          rw [callDevice_setWq react hf, hu]
          rfl
        obtain ⟨hd, hp⟩ := dueWakes_cons_of_due hdue rest
        rw [hloop, ih huf (huwq ▸ hrest) (huwq ▸ Nat.le_of_succ_le_succ hfuel), hut, huwq, hpending,
          hd, hp]
        rfl
      · obtain ⟨hd, hp⟩ := dueWakes_cons_of_not_due hs hdue
        rw [hd, hp]
        simp only [flushLoop, hwq, hdue, if_false]
        exact congrArg s.setWq hwq

/-- Each request fired is one callback, in order. -/
theorem fireWakes_calls (t : Nat) (due : List WakeRequest) (s : State) :
    (fireWakes react t due s).calls = s.calls ++ due.map (wakeCall t) := by
  induction due generalizing s with
  | nil => simp [fireWakes]
  | cons q due ih =>
    have hrest := ih (callDevice react (wakeCall t q) s).2
    rw [callDevice_calls, List.append_assoc] at hrest
    exact hrest

theorem fireWakes_wq (t : Nat) (due : List WakeRequest) {s : State} (h : s.flushing = true) :
    (fireWakes react t due s).wq = s.wq := by
  induction due generalizing s with
  | nil => rfl
  | cons q due ih => exact (ih ((callDevice_flushing ..).trans h)).trans (callDevice_wq react h _)

/-- When what devices do depends on the call alone, so do the requests a flush defers. -/
theorem fireWakes_deferred {f : DeviceCall → List Action} (hreact : ∀ d c v, (react d c v).actions = f c)
    (t : Nat) (due : List WakeRequest) {s : State} (h : s.flushing = true) (ht : s.t = t) :
    (fireWakes react t due s).deferred = s.deferred ++ due.flatMap fun q => requestsOf t (f (wakeCall t q)) := by
  induction due generalizing s with
  | nil => simp [fireWakes]
  | cons q due ih =>
    have hrest := ih ((callDevice_flushing react (wakeCall t q) s).trans h) ((callDevice_time ..).trans ht)
    rw [callDevice_deferred react h, hreact, ht, List.append_assoc] at hrest
    exact hrest

/-- When no device does anything, callbacks are recorded and change what the devices remember. -/
theorem fireWakes_no_reaction (hreact : ∀ d c v, (react d c v).actions = []) (t : Nat) (due : List WakeRequest)
    (s : State) : ∃ d, fireWakes react t due s = (s.setDevState d).setCalls (s.calls ++ due.map (wakeCall t)) := by
  induction due generalizing s with
  | nil =>
    refine ⟨s.devState, ?_⟩
    rw [List.map_nil, List.append_nil]
    rfl
  | cons q due ih =>
    have hcall : (callDevice react (wakeCall t q) s).2 = callStart react (wakeCall t q) s := by
      rw [callDevice_state, hreact]
      rfl
    obtain ⟨d, hd⟩ := ih (callStart react (wakeCall t q) s)
    have hfire : fireWakes react t (q :: due) s = fireWakes react t due (callStart react (wakeCall t q) s) :=
      congrArg (fireWakes react t due) hcall
    refine ⟨d, ?_⟩
    rw [hfire, hd, List.map_cons, List.append_cons]
    rfl

/-- The state after the loop of a flush: the requests not due stay on WQ, and the due ones are called back. -/
def afterDueWakes (s : State) : State :=
  fireWakes react s.t (dueWakes s.t s.wq) ((s.setFlushing true).setWq (pendingWakes s.t s.wq))

/-- R254: the loop of a flush, on a sorted WQ. -/
theorem flushLoop_eq_afterDueWakes {s : State} (hs : WakeSorted s.wq) :
    flushLoop react s.wq.length (s.setFlushing true) = afterDueWakes react s :=
  flushLoop_eq_fireWakes react (s := s.setFlushing true) rfl hs le_rfl

theorem flushWith_eq {s : State} (hs : WakeSorted s.wq) : flushWith react s = admitDeferred (afterDueWakes react s) :=
  congrArg admitDeferred (flushLoop_eq_afterDueWakes react hs)

theorem flushWith_wq {s : State} (hs : WakeSorted s.wq) : (flushWith react s).wq =
    (afterDueWakes react s).deferred.foldl (fun wq q => insertWake q wq) (pendingWakes s.t s.wq) := by
  have hwq : (afterDueWakes react s).wq = pendingWakes s.t s.wq := fireWakes_wq react s.t _ rfl
  rw [flushWith_eq react hs, ← hwq]
  rfl

end

/-- Settles O48: the loop makes the callbacks of the due requests, and the end of the flush admits what they deferred. -/
theorem flushFiresTheDueRequestsInOrder : Obligations.FlushFiresTheDueRequestsInOrder := by
  intro react s hs f
  have hf : f = afterDueWakes react s := rfl
  have hcalls : (flushWith react s).calls = s.calls ++ (dueWakes s.t s.wq).map (wakeCall s.t) := by
    rw [flushWith_eq react hs]
    exact fireWakes_calls react s.t _ _
  obtain ⟨htime, hie, hcycles⟩ := flushWith_clock react s
  exact ⟨hcalls, htime, hie, hcycles, rfl, rfl, (flushLoop_eq_afterDueWakes react hs).trans hf.symm,
    (flushWith_eq react hs).trans (congrArg admitDeferred hf.symm)⟩

/-- A flush in which no device does anything: the due requests leave WQ. -/
theorem flushWith_of_no_reaction {react : Nat → DeviceCall → View → Reaction} (hreact : ∀ d c v, (react d c v).actions = [])
    {s : State} (hs : WakeSorted s.wq) (hf : s.flushing = false) (hd : s.deferred = []) :
    ∃ d, flushWith react s = { s with
      wq := pendingWakes s.t s.wq, calls := s.calls ++ (dueWakes s.t s.wq).map (wakeCall s.t), devState := d } := by
  let w := pendingWakes s.t s.wq
  let c := s.calls ++ (dueWakes s.t s.wq).map (wakeCall s.t)
  obtain ⟨d, hfire⟩ := fireWakes_no_reaction react hreact s.t (dueWakes s.t s.wq) ((s.setFlushing true).setWq w)
  refine ⟨d, ?_⟩
  rw [flushWith_eq react hs, afterDueWakes, hfire]
  exact (admitDeferred_of_none (s := (((s.setFlushing true).setWq w).setDevState d).setCalls c) hd).trans
    (congrArg (fun u => ((u.setWq w).setDevState d).setCalls c) (State.setFlushing_self hf))

/-- Settles O49: WQ after the loop is the requests not due, and the deferred ones enter it. -/
theorem flushKeepsTheRequestsNotDue : Obligations.FlushKeepsTheRequestsNotDue := by
  refine ⟨fun s hs hf hd => ⟨fun react q hq hpending => ?_, fun react hreact => flushWith_of_no_reaction hreact hs hf hd,
    fun react => ?_, fun react f hreact => ?_⟩,
    fun react call u hu => ⟨callDevice_deferred react hu call, callDevice_wq react hu call⟩,
    fun dev cycles ctx u hu => scheduleWake_of_flushing hu dev cycles ctx⟩
  · rw [flushWith_wq react hs]
    exact mem_insertWakes (List.mem_filter.2 ⟨hq, decide_eq_true hpending⟩) _
  · rw [flushWith_wq react hs, ← flushLoop_eq_afterDueWakes react hs]
    rfl
  · have hdeferred := fireWakes_deferred react hreact s.t (dueWakes s.t s.wq)
      (s := (s.setFlushing true).setWq (pendingWakes s.t s.wq)) rfl rfl
    rw [State.setWq_deferred, State.setFlushing_deferred, hd, List.nil_append] at hdeferred
    rw [flushWith_wq react hs, afterDueWakes, hdeferred]
    rfl

/-! ### INT on a full queue (R232, D24) -/

/-- R232, D19: the request beyond the capacity of the queue freezes the block and is not queued. -/
theorem requestInterrupt_of_full {s : State} (m : Word) (hrun : s.cpuState = .running) (hfull : 256 ≤ s.iq.length) :
    requestInterrupt m s = s.setCpuState .errorInterruptQueueFilled := by
  rcases requestInterrupt_cases m s with ⟨hfrozen, -⟩ | ⟨-, -, h⟩ | ⟨-, hroom, -⟩
  · exact absurd hrun hfrozen
  · exact h
  · exact absurd hroom (Nat.not_lt.2 hfull)

/-- R104, R291: INT costs 4 and the next word of its operand. -/
theorem beginInstr_int (a : OperandA) (s : State) : beginInstr (.int a) s =
    (s.setPc (s.pc + BitVec.ofNat 16 (1 + a.extra))).setCycles (4 + a.extra) := by
  have hcycles : 4 + (1 + a.extra - 1) = 4 + a.extra := congrArg (4 + ·) (Nat.add_sub_cancel_left 1 a.extra)
  exact congrArg (s.setPc _).setCycles hcycles

/-- Settles O35: the instruction finds the queue full, and the end of the step advances T and has nothing to flush. -/
theorem intOnFullQueueFreezes : Obligations.IntOnFullQueueFreezes := by
  intro a s rest hrun hie hfull hwq hf hd hdec
  let t : State := { s with
    pc := s.pc + BitVec.ofNat 16 (1 + a.extra), sp := spAfterA a s.sp, cycles := 4 + a.extra,
    cpuState := .errorInterruptQueueFilled, initPending := false, calls := [] }
  have hexec : exec (.int a) (beginInstr (.int a) (startStep s)) = .next t := by
    rw [beginInstr_int, exec_int, requestInterrupt_of_full]
    · rfl
    · exact hrun
    · exact hfull
  have hend : endStep t = advanceT t := flushWith_of_no_wakes Config.deviceReaction (s := advanceT t) hwq hf hd
  rw [step_of_decode hrun (.inr hie) hdec, runInstr_of_next hexec, hend]
  rfl

/-! ### Operations of the host and of devices (R258, R263) -/

theorem State.getNamed_setNamed_same (s : State) (r : RegName) (v : Word) : (s.setNamed r v).getNamed r = v := by
  cases r with
  | general g => exact State.reg_setReg_same s g v
  | pc | sp | ex | ia => rfl

theorem State.getNamed_setNamed_other (s : State) {r q : RegName} (h : q ≠ r) (v : Word) :
    (s.setNamed r v).getNamed q = s.getNamed q := by
  cases r with
  | general g =>
    cases q with
    | general k => exact State.reg_setReg_other s g k v fun e => h (congrArg RegName.general e)
    | pc | sp | ex | ia => rfl
  | pc | sp | ex | ia =>
    cases q with
    | general k => rfl
    | pc | sp | ex | ia => first | rfl | exact absurd rfl h

/-- R39: of the control state, a write to a named register reaches IA alone. -/
theorem setNamed_sameControl (s : State) (r : RegName) (v : Word) :
    SameControl { s with ia := (s.setNamed r v).ia } (s.setNamed r v) := by
  cases r <;> exact ⟨rfl, rfl, rfl, rfl, rfl, rfl, rfl, rfl, rfl, rfl, rfl, rfl⟩

theorem setNamed_mem (s : State) (r : RegName) (v : Word) : (s.setNamed r v).mem = s.mem := by
  cases r <;> rfl

/-- R241, D23: a request to a frozen block does nothing. -/
theorem requestInterrupt_of_frozen {s : State} (m : Word) (h : s.cpuState ≠ .running) : requestInterrupt m s = s := by
  rcases requestInterrupt_cases m s with ⟨-, e⟩ | ⟨hrun, -⟩ | ⟨hrun, -⟩
  · exact e
  · exact absurd hrun h
  · exact absurd hrun h

/-! ### The image (R283) -/

section
variable {ws : List Word}

/-- An address none of the words is stored to reads as before. -/
theorem Memory.read_writeList_other (m : Memory) {a x : Word} (h : ∀ k < ws.length, x ≠ a + BitVec.ofNat 16 k) :
    (m.writeList a ws).read x = m.read x := by
  induction ws generalizing m a with
  | nil => rfl
  | cons w ws ih =>
    have hx : x ≠ a := by simpa using h 0 (Nat.zero_lt_succ _)
    have hrest : ∀ k < ws.length, x ≠ a + 1#16 + BitVec.ofNat 16 k := fun k hk => by
      rw [BitVec.add_assoc, ← BitVec.ofNat_add, Nat.add_comm 1 k]
      exact h (k + 1) (Nat.succ_lt_succ hk)
    exact (ih (m.write a w) hrest).trans (Memory.read_write_other m hx w)

/-- R50: addresses wrap after 65,536 words, so none of the 65,535 after an address is that address. -/
theorem ne_add_succ {k : Nat} (h : k + 1 < 65536) (a : Word) : a ≠ a + 1#16 + BitVec.ofNat 16 k := by
  bv_omega

/-- R50, R283: up to 65,536 words stored one after the other are read back. -/
theorem Memory.read_writeList {m : Memory} (hm : m.wf = true) (a : Word) (hlen : ws.length ≤ 65536) {k : Nat} {w : Word}
    (hk : ws[k]? = some w) : (m.writeList a ws).read (a + BitVec.ofNat 16 k) = w := by
  induction ws generalizing m a k with
  | nil => cases hk
  | cons v ws ih =>
    have hm' : (m.write a v).wf = true := Memory.write_wf hm a v
    rw [List.length_cons] at hlen
    cases k with
    | zero =>
      obtain rfl : v = w := Option.some.inj hk
      have hlater : ((m.write a v).writeList (a + 1#16) ws).read a = (m.write a v).read a :=
        Memory.read_writeList_other _ fun j hj => ne_add_succ (by omega) a
      rw [BitVec.add_zero]
      exact hlater.trans (Memory.read_write_same hm a v)
    | succ k =>
      have hread := ih hm' (a + 1#16) (by omega) hk
      rw [BitVec.add_assoc, ← BitVec.ofNat_add, Nat.add_comm 1 k] at hread
      exact hread

end

/-- R283: loading an image of at most 65,536 words puts them at the addresses from 0 on and changes nothing else. -/
theorem loadImage_reads {img : List Word} {s : State} (hm : s.mem.wf = true) (hlen : img.length ≤ 65536) :
    (∀ k w, img[k]? = some w → (loadImage img s).mem.read (BitVec.ofNat 16 k) = w) ∧
    (∀ x : Word, img.length ≤ x.toNat → (loadImage img s).mem.read x = s.mem.read x) := by
  refine ⟨fun k w hk => ?_, fun x hx => Memory.read_writeList_other s.mem fun k hk => ?_⟩
  · have hread := Memory.read_writeList hm 0#16 hlen hk
    rwa [BitVec.zero_add] at hread
  · bv_omega

/-- Settles O59: what each operation does, and the laws of sequences of operations and of a load. -/
theorem surroundingsKeepTheInvariant : Obligations.SurroundingsKeepTheInvariant := by
  refine ⟨fun acts s hs => hs.after_applyActions acts, fun acts s => ?inside, fun s r v => ?register, fun s x v hm => ?word,
    fun s m => ?interrupt, fun _ _ _ _ => rfl, fun _ => rfl, fun _ _ _ => rfl, fun _ => ⟨fun _ => rfl, rfl, rfl, rfl, rfl, rfl⟩,
    rfl, fun _ => rfl, fun img s hm hlen => ?image⟩
  case inside =>
    obtain ⟨hie, htime, hinit, hflushing, hcycles, hcalls, hdev⟩ := applyActions_sameInside acts s
    exact ⟨hie, htime, hinit, hflushing, hcycles, hcalls, hdev⟩
  case register =>
    exact ⟨State.getNamed_setNamed_same s r v, fun q hq => State.getNamed_setNamed_other s hq v, setNamed_mem s r v,
      setNamed_sameControl s r v⟩
  case word =>
    exact ⟨Memory.read_write_same hm x v, fun y hy => Memory.read_write_other s.mem hy v, rfl⟩
  case interrupt =>
    exact ⟨requestInterrupt_of_room m, requestInterrupt_of_full m, requestInterrupt_of_frozen m⟩
  case image =>
    obtain ⟨hwords, hother⟩ := loadImage_reads hm hlen
    exact ⟨hwords, hother, Memory.writeList_wf hm 0#16 img, rfl⟩

/-! ### A frozen block (R101, R234) -/

/-- R234: rounds of operations of the surroundings, each followed by a step, keep a frozen block as it is frozen. -/
theorem foldl_rounds_of_frozen
    {round : Host.Outcome State Fault Refusal → List Action → Host.Outcome State Fault Refusal}
    (hround : ∀ u acts, round (.next u) acts = step (hostActions acts u)) (rounds : List (List Action)) {s : State}
    (h : s.cpuState ≠ .running) : ∃ t, rounds.foldl round (.next s) = .next t ∧ t.cpuState = s.cpuState := by
  induction rounds generalizing s with
  | nil => exact ⟨s, rfl, rfl⟩
  | cons acts rounds ih =>
    have hcpu : (hostActions acts s).cpuState = s.cpuState := applyActions_frozen h acts
    have hfrozen : (hostActions acts s).cpuState ≠ .running := fun e => h (hcpu.symm.trans e)
    obtain ⟨t, ht, htcpu⟩ := ih (s := frozenStep (hostActions acts s)) hfrozen
    refine ⟨t, ?_, htcpu.trans hcpu⟩
    rw [List.foldl_cons, hround, frozenStepChangesNothing _ hfrozen]
    exact ht

theorem not_safeFor_of_frozen {s : State} (h : s.Frozen) (n : Nat) : ¬ SafeFor n s := by
  cases n with
  | zero => exact fun hsafe => hsafe h
  | succ n => exact fun ⟨hrunning, _⟩ => hrunning h

/-- Settles O54: no round unfreezes the block, and the host's operations work on it as on any other. -/
theorem frozenForGood : Obligations.FrozenForGood := by
  intro rounds s h
  exact ⟨foldl_rounds_of_frozen (fun _ _ => rfl) rounds h, frozenStepChangesNothing s h,
    fun m => requestInterrupt_of_frozen m h, State.getNamed_setNamed_same s, fun hm => Memory.read_write_same hm,
    not_safeFor_of_frozen h⟩

/-! ### Time (R250) -/

theorem hwiWith_time (ndev : Nat) (react : Nat → DeviceCall → View → Reaction) (va : Word) (s : State) :
    (hwiWith ndev react va s).t = s.t := by
  rcases hwiWith_cases ndev react va s with ⟨-, e⟩ | ⟨-, e⟩ <;> rw [e]
  exact callDevice_time react (.interrupt va.toNat) s

theorem ControlChange.time_eq {i : Instr} {u t : State} (h : ControlChange i u t) : t.t = u.t := by
  cases h with
  | unchanged | skip | freeze | ias | rfi | iaq => rfl
  | int a u m => exact (requestInterrupt_sameInside m u).time
  | hwi a u va => exact hwiWith_time _ _ va u

/-- R250: an instruction by itself leaves T. -/
theorem exec_time {i : Instr} {s t : State} (h : exec i s = .next t) : t.t = s.t := by
  obtain ⟨u, hu, hc⟩ := exec_execEffect h
  exact hc.time_eq.trans hu.control.time

/-- The surroundings never raise `IllegalInstruction`, a device called by HWI neither. -/
theorem hwiWith_not_illegal {s : State} (h : s.cpuState ≠ .errorIllegalInstruction) (ndev : Nat)
    (react : Nat → DeviceCall → View → Reaction) (va : Word) :
    (hwiWith ndev react va s).cpuState ≠ .errorIllegalInstruction := by
  rcases hwiWith_cases ndev react va s with ⟨-, e⟩ | ⟨-, e⟩ <;> rw [e]
  · exact h
  · exact applyActions_not_illegal (s := callStart react (.interrupt va.toNat) s) h _

/-- R179, D18: only a skip chain raises `IllegalInstruction`, and the count is then 0. -/
theorem ControlChange.cycles_of_illegal {i : Instr} {u t : State} (h : ControlChange i u t)
    (hu : u.cpuState ≠ .errorIllegalInstruction) (ht : t.cpuState = .errorIllegalInstruction) : t.cycles = 0 := by
  cases h with
  | freeze => rfl
  | unchanged | skip | ias | rfi | iaq => exact absurd ht hu
  | int a u m => exact absurd ht (applyActions_not_illegal hu [.interrupt m])
  | hwi a u va => exact absurd ht (hwiWith_not_illegal hu _ _ va)

theorem exec_cycles_of_illegal {i : Instr} {s t : State} (hs : s.cpuState ≠ .errorIllegalInstruction)
    (h : exec i s = .next t) (ht : t.cpuState = .errorIllegalInstruction) : t.cycles = 0 := by
  obtain ⟨u, hu, hc⟩ := exec_execEffect h
  exact hc.cycles_of_illegal (hu.control.cpuState.trans_ne hs) ht

/-- What a step that starts at T = `n` counts: the cycles it returns, none when it raised `IllegalInstruction` (D18). -/
structure CountsFrom (n : Nat) (t : State) : Prop where
  time : t.t = n + t.cycles
  illegal : t.cpuState = .errorIllegalInstruction → t.cycles = 0

/-- R107, R250: the end of a step adds its count to T, or neither advances T nor returns a count. -/
theorem endStep_countsFrom {u : State} (h : u.cpuState = .errorIllegalInstruction → u.cycles = 0) :
    CountsFrom u.t (endStep u) := by
  rcases endStep_cases u with ⟨hillegal, e⟩ | ⟨hlegal, e⟩ <;> rw [e]
  · exact ⟨by rw [h hillegal, Nat.add_zero], h⟩
  · obtain ⟨htime, -, hcycles⟩ := flushWith_clock Config.deviceReaction (advanceT u)
    refine ⟨htime.trans (congrArg (u.t + ·) hcycles.symm), fun hflushed => absurd hflushed ?_⟩
    exact flushWith_not_illegal _ (s := advanceT u) hlegal

theorem runningStep_countsFrom {s t : State} (hrun : s.cpuState = .running) (h : runningStep s = .next t) :
    CountsFrom s.t t := by
  obtain ⟨htime, hcpu⟩ := deliverInterrupts_keeps (startStep s)
  rcases runningStep_next h with ⟨e, -, rfl⟩ | ⟨i, u, -, hu, rfl⟩
  · exact ⟨htime, fun _ => rfl⟩
  · have hlegal : (beginInstr i (deliverInterrupts (startStep s))).cpuState ≠ .errorIllegalInstruction :=
      (hcpu.trans hrun).trans_ne (by decide)
    have hut : u.t = s.t := (exec_time hu).trans htime
    exact hut ▸ endStep_countsFrom (exec_cycles_of_illegal hlegal hu)

/-- R101, R250: everything a step does to T and to the count. -/
theorem step_counts {s t : State} (h : step s = .next t) : t.t = s.t + t.cycles ∧
    (s.cpuState ≠ .running ∨ t.cpuState = .errorIllegalInstruction → t.cycles = 0) := by
  rcases step_cases s with ⟨hrun, e⟩ | ⟨-, e⟩ <;> rw [e] at h
  · obtain ⟨htime, hillegal⟩ := runningStep_countsFrom hrun h
    exact ⟨htime, fun hcase => hcase.elim (absurd hrun) hillegal⟩
  · cases h
    exact ⟨rfl, fun _ => rfl⟩

/-- Settles O55: instructions and callbacks leave T, and the end of the step adds the count, which is 0 where T stays. -/
theorem stepAdvancesTimeByItsCount : Obligations.StepAdvancesTimeByItsCount := by
  refine ⟨fun s t h => ?_, fun _ _ _ => exec_time, fun s t h hcase => ?_⟩
  · obtain ⟨htime, -⟩ := step_counts h
    exact htime
  · obtain ⟨htime, hzero⟩ := step_counts h
    rw [htime, hzero hcase, Nat.add_zero]

end Sys2Proof.Machine
end

section
/-! SUPPORT. The statements of `70_reset_and_hazards.md`: the base costs (R291) and the bounds of an instruction's cost (R292). -/

namespace Sys2Proof.Machine

/-! ### The base cost (R291) -/

/-- R291: an operator with two operands costs at most 3; the operators of cost 4 take one. -/
theorem baseCycles_of_normal {i : Instr} {b : OperandB} (h : i.operandB = some b) :
    1 ≤ baseCycles i ∧ baseCycles i ≤ 3 := by
  cases i with
  | jsr a | int a | iag a | ias a | rfi a | iaq a | hwn a | hwq a | hwi a => cases h
  | _ => simp only [baseCycles, Nat.le_refl, Nat.reduceLeDiff, and_self]

theorem baseCycles_of_special {i : Instr} (h : i.operandB = none) : 1 ≤ baseCycles i ∧ baseCycles i ≤ 4 := by
  cases i with
  | jsr a | int a | iag a | ias a | rfi a | iaq a | hwn a | hwq a | hwi a =>
    simp only [baseCycles, Nat.le_refl, Nat.reduceLeDiff, and_self]
  | _ => cases h

theorem baseCycles_of_conditional {i : Instr} (h : i.isConditional = true) : baseCycles i = 2 := by
  obtain ⟨b, a, c, hc, rfl⟩ := (isConditional_iff i).1 h
  have htable : ∀ c ∈ conditionalTable b a, baseCycles c.1 = 2 := by
    simp [conditionalTable, baseCycles]
  exact htable c hc

/-! ### The next words (R75) -/

theorem words_of_normal {i : Instr} {b : OperandB} (h : i.operandB = some b) :
    i.words = 1 + i.operandA.extra + b.extra := by
  simp only [Instr.words, h]

theorem words_of_special {i : Instr} (h : i.operandB = none) : i.words = 1 + i.operandA.extra := by
  simp only [Instr.words, h, Nat.add_zero]

/-- R292: base 3 with two next words, or base 4 with one, is the most an instruction costs before any surcharge. -/
theorem instrCost_bounds (i : Instr) : 1 ≤ baseCycles i ∧ baseCycles i ≤ 4 ∧ baseCycles i + (i.words - 1) ≤ 5 := by
  obtain ⟨-, ha⟩ := Laws.EncodeLength.operandA_length i.operandA
  cases h : i.operandB with
  | none =>
    have hbase := baseCycles_of_special h
    have hwords := words_of_special h
    omega
  | some b =>
    obtain ⟨-, hb⟩ := Laws.EncodeLength.operandB_length b
    have hbase := baseCycles_of_normal h
    have hwords := words_of_normal h
    omega

/-- Settles O56: the table by its four rows, and the bounds by the instruction's format. -/
theorem instructionCostBounds : Obligations.InstructionCostBounds := by
  refine ⟨fun b a => ?table, fun i => ?bounds⟩
  case table =>
    simp only [List.forall_mem_cons, List.not_mem_nil, false_implies, implies_true, baseCycles, and_self]
  case bounds =>
    obtain ⟨hpos, hmax, hcost⟩ := instrCost_bounds i
    exact ⟨hpos, hmax, hcost, baseCycles_of_conditional, by rintro a rfl; rfl⟩

end Sys2Proof.Machine
end
